-- ==== Sys2Proof/Word.lean ====
section
/-!
DEFINITION. The word types of the ens160-hal sequencer (00_scope.md R6, R8, R9; 30_encoding.md R54).
-/

namespace Sys2Proof

/-- A byte: 8 bits, bit 0 the least significant (R8, R9). -/
abbrev Byte := BitVec 8

/-- A 16-bit register value, the spec's u16 (R10). -/
abbrev Half := BitVec 16

/-- The 40-bit host command word: operation code in bits 39:32, operand in bits 31:0 (R54). -/
abbrev CmdWord := BitVec 40

/-- A 7-bit device bus address (R15, R28). -/
abbrev DevAddr := BitVec 7

end Sys2Proof
end

