-- ==== Sys2Proof/Config.lean ====
section
/-!
DEFINITION. The implementation parameters of 00_scope.md R6 that the spec leaves OPEN. Each is an
uninterpreted constant: nothing in Lean can evaluate it, so a proof holds for every legal value.
-/

namespace Sys2Proof

/-- `EXEC_VARIANT` (R6): one of the two builds, never both. -/
inductive ExecVariant where
  /-- Every transaction blocks the caller; there is no CANCEL (R128). -/
  | blocking
  /-- Every transaction is a suspension point; the host may CANCEL (R129). -/
  | suspending
  deriving DecidableEq, Repr, Inhabited

/-- The values of `TERR` beside one, OPEN: an arbitrary type, which may be empty, finite or uncountable. It comes
with a linear order because every type has one, and equality of states is decided through it; nothing else
uses the order (log 3). -/
opaque Config.otherTErrs : LinOrd.{0}

/-- A bare type, named so that the class below can speak of it. -/
structure TErrCarrier where
  /-- The type. -/
  Carrier : Type

/-- A type whose values can be compared and printed. -/
class TErrKind extends TErrCarrier, LinearOrder Carrier, Repr Carrier

/-- The type of `Config.otherTErrs`; each of its values prints as one word, since the block never inspects
one (R6). -/
abbrev Config.otherTErrKind : TErrKind where
  Carrier := Config.otherTErrs
  toLinearOrder := Config.otherTErrs.str
  toRepr := { reprPrec := fun _ _ => "TERR" }

/-- `TERR`, "any non-empty type of transport error values; the block never inspects a value of it" (R6). OPEN:
every non-empty type is one point and an arbitrary rest, and of the rest nothing can be proved (log 3). -/
inductive TErr where
  /-- The value that makes the type non-empty. -/
  | first
  /-- A further value, where this hardware has any. -/
  | other (e : Config.otherTErrKind.Carrier)
  deriving DecidableEq, Repr, Inhabited

/-- `EXEC_VARIANT`, OPEN (R6, 92_eei_decisions.md D24). -/
opaque Config.execVariant : ExecVariant

/-- `CMD_NOP`, the command byte No-op, OPEN (R6, R64, D9). -/
opaque Config.cmdNop : Byte

/-- `CMD_GET_FW`, the command byte Get-firmware-version, OPEN (R6, R64, D9). -/
opaque Config.cmdGetFw : Byte

/-- `CMD_CLEAR`, the command byte Clear, OPEN (R6, R64, D9). -/
opaque Config.cmdClear : Byte

/-- `TERR_W` less one, OPEN: R6 asks only that `TERR_W` be a positive integer. -/
opaque Config.terrWidthPred : Nat

/-- `TERR_W`, the packed width of a transport error, a positive integer (R6, D4). -/
def Config.terrWidth : Nat := Config.terrWidthPred + 1

/-- How a transport error is packed into `TERR_W` bits: the spec gives no packing, so it is free. -/
opaque Config.packTErr : TErr → BitVec Config.terrWidth

end Sys2Proof
end

