-- ==== Sys2Proof/Syntax.lean ====
section
/-!
DEFINITION. The 17 operations of 30_encoding.md R56, one constructor for each row of
spec/opcode_table.json, with the operands of R55.
-/

namespace Sys2Proof

/-- Pin polarity of the interrupt configuration (30_encoding.md R68). -/
inductive Polarity where
  /-- Code 0. -/
  | activeLow
  /-- Code 1. -/
  | activeHigh
  deriving DecidableEq, Repr

/-- Pin drive mode of the interrupt configuration (30_encoding.md R68). -/
inductive Drive where
  /-- Code 0. -/
  | openDrain
  /-- Code 1. -/
  | pushPull
  deriving DecidableEq, Repr

/-- The interrupt configuration record `IntCfg` (44_bitcodec.md R112). All 32 combinations are legal. -/
structure IntCfg where
  /-- Master enable. -/
  en : Bool
  /-- Trigger on data-ready. -/
  onDrdy : Bool
  /-- Trigger on GPR-data-ready. -/
  onGpr : Bool
  /-- Active level of the device's pin. -/
  polarity : Polarity
  /-- Output stage of the device's pin. -/
  drive : Drive
  deriving DecidableEq, Repr

/-- The operation set (R56). Numeric operands are the integers the operand bits spell (R55: `t` is "a
signed 32-bit two's-complement integer", `u` "an unsigned 16-bit integer"); `WellFormed.lean` says
which integers fit. -/
inductive Instr where
  /-- `INIT a`, op 0x01, sub-format HA: create the device handle (R77). -/
  | init (a : DevAddr)
  /-- `RELEASE`, op 0x02, H0: destroy the handle (R78). -/
  | release
  /-- `RESET`, op 0x03, H0: write the Reset mode code (R80). -/
  | reset
  /-- `IDLE`, op 0x04, H0: write the Idle mode code (R81). -/
  | idle
  /-- `DEEP_SLEEP`, op 0x05, H0: write the Sleep mode code (R82). -/
  | deepSleep
  /-- `OPERATIONAL`, op 0x06, H0: write the Standard mode code (R83). -/
  | operational
  /-- `CLEAR_COMMAND`, op 0x07, H0: write No-op, then Clear (R84). -/
  | clearCommand
  /-- `FIRMWARE_VERSION`, op 0x08, H0: command write, then a 3-byte read (R85). -/
  | firmwareVersion
  /-- `STATUS`, op 0x09, H0: read and decode the status byte (R88). -/
  | status
  /-- `AIRQUALITY_INDEX`, op 0x0A, H0: read the AQI register (R89). -/
  | airqualityIndex
  /-- `TVOC`, op 0x0B, H0: read the TVOC count (R91). -/
  | tvoc
  /-- `ECO2`, op 0x0C, H0: read the eCO2 value (R92). -/
  | eco2
  /-- `TEMP_AND_HUM`, op 0x0D, H0: read temperature and humidity, scaled (R93). -/
  | tempAndHum
  /-- `SET_TEMP t`, op 0x0E, HT: write the ambient temperature, hundredths of a degree (R104). -/
  | setTemp (t : Int)
  /-- `SET_HUM u`, op 0x0F, HU: write the relative humidity, hundredths of a percent (R105). -/
  | setHum (u : Nat)
  /-- `ECO2_TO_AQI v`, op 0x10, HU: classify an eCO2 value in ppm (R106). -/
  | eco2ToAqi (v : Nat)
  /-- `SET_INTCFG c`, op 0x11, HI: write the interrupt configuration (R115). -/
  | setIntcfg (c : IntCfg)
  deriving DecidableEq, Repr

end Sys2Proof
end

