-- ==== Sys2Proof/WellFormed.lean ====
section
/-!
DEFINITION. Which operands fit the sub-formats of 30_encoding.md R55. Only HT and HU have a check: the
operands of HA and HI are held in types of exactly their width, and H0 has none.
-/

namespace Sys2Proof

/-- `t` is an integer that 32 bits in two's complement spell (R10's i32, sub-format HT). -/
abbrev FitsI32 (t : Int) : Prop := -2147483648 ≤ t ∧ t ≤ 2147483647

/-- `u` is an unsigned 16-bit integer (R10's u16, sub-format HU). -/
abbrev FitsU16 (u : Nat) : Prop := u ≤ 65535

/-- The instruction's operand fits its sub-format (R55). This is not the operand DOMAIN of R107: a
well-formed `SET_TEMP` may still be refused with `OPERAND_RANGE`. -/
def Instr.wf : Instr → Bool
  | .init _ => true
  | .release => true
  | .reset => true
  | .idle => true
  | .deepSleep => true
  | .operational => true
  | .clearCommand => true
  | .firmwareVersion => true
  | .status => true
  | .airqualityIndex => true
  | .tvoc => true
  | .eco2 => true
  | .tempAndHum => true
  | .setTemp t => decide (FitsI32 t)
  | .setHum u => decide (FitsU16 u)
  | .eco2ToAqi v => decide (FitsU16 v)
  | .setIntcfg _ => true

end Sys2Proof
end

