-- ==== Sys2Proof/Decode.lean ====
section
/-!
DEFINITION. Decoding the 40-bit host command word (30_encoding.md R54, R55, R56, R60, R70, R71), total
on every word and refusing by name; and after it the encoder, from the same tables.
-/

namespace Sys2Proof

/-- Why a command word is `Illegal` (R60). Both lead to `refuse(ILLEGAL_OP)`. -/
inductive Illegal where
  /-- `op` is 0x00 or 0x12 to 0xFF and selects no operation (R70). -/
  | illegalOp
  /-- A bit of `arg` that the sub-format of `op` reserves is 1 (R71). -/
  | reservedBit
  deriving DecidableEq, Repr

/-- `op = cw[39:32]` (R54). -/
def CmdWord.op (cw : CmdWord) : Byte := cw.extractLsb' 32 8

/-- `arg = cw[31:0]` (R54). -/
def CmdWord.arg (cw : CmdWord) : BitVec 32 := cw.extractLsb' 0 32

/-- The command word `{op, arg}` (R54). -/
def cmdWord (op : Byte) (arg : BitVec 32) : CmdWord := op ++ arg

/-- Sub-format H0: no operand, `arg[31:0]` reserved (R55). -/
def decodeH0 (i : Instr) (arg : BitVec 32) : Except Illegal Instr :=
  if arg.toNat = 0 then .ok i else .error .reservedBit

/-- Sub-format HA: `a = arg[6:0]`, `arg[31:7]` reserved (R55). -/
def decodeHA (f : DevAddr → Instr) (arg : BitVec 32) : Except Illegal Instr :=
  if arg.toNat < 128 then .ok (f (arg.extractLsb' 0 7)) else .error .reservedBit

/-- Sub-format HT: `t = arg[31:0]` in two's complement, no reserved bits (R55). -/
def decodeHT (f : Int → Instr) (arg : BitVec 32) : Except Illegal Instr :=
  .ok (f arg.toInt)

/-- Sub-format HU: `u = arg[15:0]`, unsigned, `arg[31:16]` reserved (R55). -/
def decodeHU (f : Nat → Instr) (arg : BitVec 32) : Except Illegal Instr :=
  if arg.toNat < 65536 then .ok (f (arg.extractLsb' 0 16).toNat) else .error .reservedBit

/-- Polarity code: 0 `ActiveLow`, 1 `ActiveHigh` (R68). -/
def Polarity.ofBit (b : Bool) : Polarity := if b then .activeHigh else .activeLow

/-- The code of a polarity (R68). -/
def Polarity.bit : Polarity → Bool
  | .activeLow => false
  | .activeHigh => true

/-- Drive-mode code: 0 `OpenDrain`, 1 `PushPull` (R68). -/
def Drive.ofBit (b : Bool) : Drive := if b then .pushPull else .openDrain

/-- The code of a drive mode (R68). -/
def Drive.bit : Drive → Bool
  | .openDrain => false
  | .pushPull => true

/-- The record of sub-format HI: `en`, `on_drdy`, `on_gpr`, `polarity`, `drive` are `arg[0]` to `arg[4]`
in that order (R55, R112). -/
def intCfgOfArg (arg : BitVec 32) : IntCfg where
  en := arg.getLsbD 0
  onDrdy := arg.getLsbD 1
  onGpr := arg.getLsbD 2
  polarity := .ofBit (arg.getLsbD 3)
  drive := .ofBit (arg.getLsbD 4)

/-- Sub-format HI: five fields in `arg[4:0]`, `arg[31:5]` reserved (R55). -/
def decodeHI (f : IntCfg → Instr) (arg : BitVec 32) : Except Illegal Instr :=
  if arg.toNat < 32 then .ok (f (intCfgOfArg arg)) else .error .reservedBit

/-- The opcode map (R56): the operation that `op` selects, with the operand of its sub-format. -/
def decodeFields (op : Byte) (arg : BitVec 32) : Except Illegal Instr :=
  match op.toNat with
  | 0x01 => decodeHA .init arg
  | 0x02 => decodeH0 .release arg
  | 0x03 => decodeH0 .reset arg
  | 0x04 => decodeH0 .idle arg
  | 0x05 => decodeH0 .deepSleep arg
  | 0x06 => decodeH0 .operational arg
  | 0x07 => decodeH0 .clearCommand arg
  | 0x08 => decodeH0 .firmwareVersion arg
  | 0x09 => decodeH0 .status arg
  | 0x0A => decodeH0 .airqualityIndex arg
  | 0x0B => decodeH0 .tvoc arg
  | 0x0C => decodeH0 .eco2 arg
  | 0x0D => decodeH0 .tempAndHum arg
  | 0x0E => decodeHT .setTemp arg
  | 0x0F => decodeHU .setHum arg
  | 0x10 => decodeHU .eco2ToAqi arg
  | 0x11 => decodeHI .setIntcfg arg
  | _ => .error .illegalOp

/-- `decode(cw)` (R60), total on every 40-bit word. -/
def decode (cw : CmdWord) : Except Illegal Instr :=
  decodeFields (CmdWord.op cw) (CmdWord.arg cw)

/-! The encoder. -/

/-- The operand bits of sub-format HI (R55). -/
def IntCfg.arg (c : IntCfg) : BitVec 32 :=
  BitVec.ofNat 32 (c.en.toNat + 2 * c.onDrdy.toNat + 4 * c.onGpr.toNat +
    8 * c.polarity.bit.toNat + 16 * c.drive.bit.toNat)

/-- The operation code of an instruction (R56). -/
def Instr.opcode : Instr → Byte
  | .init _ => 0x01
  | .release => 0x02
  | .reset => 0x03
  | .idle => 0x04
  | .deepSleep => 0x05
  | .operational => 0x06
  | .clearCommand => 0x07
  | .firmwareVersion => 0x08
  | .status => 0x09
  | .airqualityIndex => 0x0A
  | .tvoc => 0x0B
  | .eco2 => 0x0C
  | .tempAndHum => 0x0D
  | .setTemp _ => 0x0E
  | .setHum _ => 0x0F
  | .eco2ToAqi _ => 0x10
  | .setIntcfg _ => 0x11

/-- The operand bits of an instruction (R55); H0 instructions have all of them 0. -/
def Instr.operand : Instr → BitVec 32
  | .init a => a.setWidth 32
  | .setTemp t => BitVec.ofInt 32 t
  | .setHum u => BitVec.ofNat 32 u
  | .eco2ToAqi v => BitVec.ofNat 32 v
  | .setIntcfg c => c.arg
  | .release => 0
  | .reset => 0
  | .idle => 0
  | .deepSleep => 0
  | .operational => 0
  | .clearCommand => 0
  | .firmwareVersion => 0
  | .status => 0
  | .airqualityIndex => 0
  | .tvoc => 0
  | .eco2 => 0
  | .tempAndHum => 0

/-- The command word of an instruction (R54 to R56). -/
def encode (i : Instr) : CmdWord := cmdWord i.opcode i.operand

/-- The instruction the decoder reads from a row's word, its bits numbered as spec/opcode_table.json
numbers them: one 40-bit number, bit 0 the least significant (R54: a value on a port, with no byte
order). Bits from `nbits` up are 0; a number of 41 bits or more is no command word. -/
def decodeTableWord (nbits w : Nat) : Option Instr :=
  if w % 2 ^ nbits < 2 ^ 40 then
    match decode (BitVec.ofNat 40 (w % 2 ^ nbits)) with
    | .ok i => some i
    | .error _ => none
  else none

end Sys2Proof
end

