-- ==== Sys2Proof/Machine/State.lean ====
section
/-!
DEFINITION. The state: the record `S` of 10_state.md R13, field for field, and beside it what stands
outside the block: the host's moves, the transport's answers and the responses delivered.
-/

namespace Sys2Proof.Machine

/-- A transaction descriptor (10_state.md R19). -/
inductive Txn where
  /-- `W(addr, bytes)`: a bus write (20_memory.md R29). -/
  | w (addr : DevAddr) (bytes : List Byte)
  /-- `WR(addr, wbytes, n)`: a bus write-then-read of `n` bytes (20_memory.md R30). -/
  | wr (addr : DevAddr) (wbytes : List Byte) (n : Nat)
  deriving DecidableEq, Repr

/-- An event of `S.trace` (10_state.md R21). -/
inductive Event where
  /-- `Issue(t)`. -/
  | issue (t : Txn)
  /-- `Done(ok)`: a write answered with success. -/
  | doneOk
  /-- `Done(ok, bytes)`: a read answered with success. -/
  | doneBytes (bs : List Byte)
  /-- `Done(err, e)`: a transaction answered with failure. -/
  | doneErr (e : TErr)
  /-- `Abandoned`: an outstanding transaction dropped by a cancellation (R124). -/
  | abandoned
  deriving DecidableEq, Repr

/-- The answer of the transport to the outstanding transaction (20_memory.md R29, R30). -/
inductive Answer where
  /-- `ok`, to a `BusWrite`. -/
  | ok
  /-- `ok(rbytes)`, to a `BusWriteRead`. -/
  | okBytes (bs : List Byte)
  /-- `err(e)`. -/
  | err (e : TErr)
  deriving DecidableEq, Repr

/-- One free choice of the oracle of 20_memory.md R31, before it is shaped by the request it answers: a
success brings four arbitrary bytes, of which a read of n bytes takes the first n and a write none. Every
value of this type is a legal choice, and every legal answer is one of them (log 4). -/
inductive Draw where
  /-- The transport succeeds. -/
  | success (b0 b1 b2 b3 : Byte)
  /-- The transport fails with `e`. -/
  | failure (e : TErr)
  deriving DecidableEq, Repr

/-- A move of the transport toward a waiting block. -/
inductive TransportMove where
  /-- The answer to the outstanding transaction. -/
  | answer (d : Draw)
  /-- A late answer to a transaction that a CANCEL dropped: discarded (R124). -/
  | late (d : Draw)
  deriving DecidableEq, Repr

/-- A move of the host (45_execution_model.md R119). -/
inductive HostMove where
  /-- Present a command word (ACCEPT, R121). -/
  | present (cw : CmdWord)
  /-- Cancel the operation in progress (CANCEL, R124). -/
  | cancel
  /-- Make no move for one step, and leave that step to the sequencer or the transport. -/
  | pass
  deriving DecidableEq, Repr

/-- The 2-bit validity of the status byte (30_encoding.md R66). -/
inductive Validity where
  /-- Code 0b00. -/
  | normalOperation
  /-- Code 0b01. -/
  | warmupPhase
  /-- Code 0b10. -/
  | initStartupPhase
  /-- Code 0b11. -/
  | invalidOutput
  deriving DecidableEq, Repr

/-- The Status record (44_bitcodec.md R109). -/
structure StatusRec where
  /-- Bit 7. -/
  runningNormally : Bool
  /-- Bit 6. -/
  error : Bool
  /-- Bits 3:2. -/
  validity : Validity
  /-- Bit 1. -/
  dataReady : Bool
  /-- Bit 0. -/
  newDataInGpr : Bool
  deriving DecidableEq, Repr

/-- The AQI ordinal, codes 1 to 5 (30_encoding.md R69). -/
inductive Aqi where
  /-- Code 1. -/
  | excellent
  /-- Code 2. -/
  | good
  /-- Code 3. -/
  | moderate
  /-- Code 4. -/
  | poor
  /-- Code 5. -/
  | unhealthy
  deriving DecidableEq, Repr

/-- The typed result of an operation (30_encoding.md R59, first two columns). -/
inductive OpResult where
  /-- No result. -/
  | unit
  /-- `STATUS`. -/
  | status (r : StatusRec)
  /-- `AIRQUALITY_INDEX` and `ECO2_TO_AQI`. -/
  | aqi (a : Aqi)
  /-- `TVOC` and `ECO2`: a u16. -/
  | count (v : Half)
  /-- `TEMP_AND_HUM`: temperature carried as i32, humidity as u16 (43_conversion.md R100). -/
  | tempHum (temp : BitVec 32) (hum : Half)
  /-- `FIRMWARE_VERSION`: (major, minor, patch). -/
  | firmware (major minor patch : Byte)
  deriving DecidableEq, Repr

/-- The reason of a refusal (30_encoding.md R58). -/
inductive Reason where
  /-- 1: the word is `Illegal`. -/
  | illegalOp
  /-- 2: the operation needs a handle and there is none. -/
  | notOwned
  /-- 3: `INIT` while there is a handle. -/
  | alreadyOwned
  /-- 4: the operand's raw image is outside 0 to 65535. -/
  | operandRange
  deriving DecidableEq, Repr

/-- The response of an operation that was not cancelled (R57, R133), as a sum type (D4 allows it). -/
inductive Response where
  /-- Kind 0, `OK` with the typed result. -/
  | ok (r : OpResult)
  /-- Kind 1, `BUS_ERROR(e)`. -/
  | busError (e : TErr)
  /-- Kind 2, `CONV_ERROR(v)`. -/
  | convError (v : Half)
  /-- Kind 3, `REFUSED(reason)`. -/
  | refused (r : Reason)
  deriving DecidableEq, Repr

/-- The state of the block: "the record `S` with exactly the fields of this table" (R13). -/
structure Seq where
  /-- `S.owned` (R14). -/
  owned : Bool
  /-- `S.dev_addr`, "7 bits, or no value" (R15). -/
  devAddr : Option DevAddr
  /-- `S.busy` (R16). -/
  busy : Bool
  /-- `S.cur_op` (R17). -/
  curOp : Byte
  /-- `S.cur_arg` (R17). -/
  curArg : BitVec 32
  /-- `S.step`, the block's program counter, 1 bit (R18). -/
  stepIdx : BitVec 1
  /-- `S.inflight`, `none` or the outstanding transaction (R19). -/
  inflight : Option Txn
  /-- `S.rx`, the bytes of the last completed read (R20). -/
  rx : List Byte
  /-- `S.trace`, the ghost list of events (R21). -/
  trace : List Event
  deriving DecidableEq, Repr

/-- The whole model's state. `seq` is the block; the other three fields are not the block's (log 2). -/
structure State where
  /-- The block's own state `S` (R13). -/
  seq : Seq
  /-- The host's moves to come, first one first: its program (R167) and its cancellations. -/
  host : List HostMove
  /-- The transport's moves to come, first one first. When it is empty the transport never answers. -/
  transport : List TransportMove
  /-- The responses delivered so far, oldest first (R57, R167). -/
  responses : List Response
  deriving DecidableEq, Repr

/-- Why the machine stops. Each is SAFE: no run from reset reaches one, and the spec gives the block no
step in these states. -/
inductive Fault where
  /-- Raised by a meaning asked to run on a block busy with another word: presenting a word while
  `S.busy = 1` is "outside the model" (R130, U12 `stuck`). Safe. -/
  | presentedWhileBusy
  /-- Raised by ISSUE when `S.dev_addr` has no value, which R27 (e) excludes. Safe. -/
  | noDeviceAddress
  /-- Raised by ISSUE when `S.step` names no transaction of the operation, which R27 (c) excludes. Safe. -/
  | noTransaction
  /-- Raised by COMPLETE when `S.rx` is too short for the operation's result, which R126 excludes. Safe. -/
  | shortRead
  /-- Raised by a step of a busy block whose latched word is `Illegal`, which R121 excludes. Safe. -/
  | latchedWordIllegal
  deriving DecidableEq, Repr

/-- Why the model has no meaning. -/
inductive Refusal where
  /-- Raised only by an arm of `exec` for an instruction with no meaning; there is none left. Safe. -/
  | notModelled (mnemonic : String)
  deriving DecidableEq, Repr

/-- The block right after reset (R26, R153). `cur_op` and `cur_arg` are "unspecified (never read while
`S.busy = 0`)"; they hold 0 here, DESIGN CHOICE (log 1). -/
def Seq.reset : Seq where
  owned := false
  devAddr := none
  busy := false
  curOp := 0
  curArg := 0
  stepIdx := 0
  inflight := none
  rx := []
  trace := []

/-- The machine right after reset: the block as R26 says, no move of the host or the transport listed,
no response delivered. -/
def State.reset : State where
  seq := Seq.reset
  host := []
  transport := []
  responses := []

end Sys2Proof.Machine
end

