-- ==== Sys2Proof/Machine/Flags.lean ====
section
/-!
DEFINITION. The block's two status flags, `owned` and `busy` (10_state.md R14, R16, R23), the control
state read off them (45_execution_model.md R120), and the ownership check (40_lifecycle.md R76). There
are no condition codes, and no arithmetic sets a flag (R23).
-/

namespace Sys2Proof.Machine

/-- The control state of the block (R120). -/
inductive Ctrl where
  /-- `IDLE`: `S.busy = 0`. -/
  | idle
  /-- `READY(k)`: transaction `k` is next to be issued. -/
  | ready (k : Nat)
  /-- `WAIT(k)`: transaction `k`, the descriptor `t`, is not yet answered. -/
  | wait (k : Nat) (t : Txn)
  deriving DecidableEq, Repr

/-- The control state, read off `S` (R120). -/
def Seq.ctrl (q : Seq) : Ctrl :=
  if q.busy then
    match q.inflight with
    | none => .ready q.stepIdx.toNat
    | some t => .wait q.stepIdx.toNat t
  else .idle

/-- The word latched in `S.cur_op` and `S.cur_arg` (R17, R121). -/
def Seq.latched (q : Seq) : CmdWord := cmdWord q.curOp q.curArg

/-- What an operation asks of `S.owned` (R76). -/
inductive Ownership where
  /-- Every operation but the two below needs a handle. -/
  | needed
  /-- `INIT` needs that there is none. -/
  | absent
  /-- `ECO2_TO_AQI` needs nothing. -/
  | any
  deriving DecidableEq, Repr

/-- The ownership check of R76 (2): the reason to refuse, if any. -/
def Ownership.refusal (o : Ownership) (owned : Bool) : Option Reason :=
  match o with
  | .needed => if owned then none else some .notOwned
  | .absent => if owned then some .alreadyOwned else none
  | .any => none

/-- The flag effect of `INIT a`: `S.owned <- 1; S.dev_addr <- a` (R77). -/
def Seq.takeHandle (q : Seq) (a : DevAddr) : Seq := { q with owned := true, devAddr := some a }

/-- The flag effect of `RELEASE`: `S.owned <- 0; S.dev_addr <- no value` (R78). -/
def Seq.dropHandle (q : Seq) : Seq := { q with owned := false, devAddr := none }

/-- The end of the operation in progress: `S.busy <- 0` (R123). -/
def Seq.endOp (q : Seq) : Seq := { q with busy := false }

end Sys2Proof.Machine
end

