-- ==== Sys2Proof/Machine/Operands.lean ====
section
/-!
DEFINITION. The register map and the byte order of 20_memory.md (R37, R41, R46) and the two frame
shapes of 30_encoding.md R61: all the operand forms a transaction has.
-/

namespace Sys2Proof.Machine

/-- `le16(b0, b1) = zext_16(b0) | (zext_16(b1) << 8)`, `b0` the low byte (R9, R41). -/
def le16 (b0 b1 : Byte) : Half := b0.setWidth 16 ||| (b1.setWidth 16 <<< 8)

/-- `bytes_le16(v) = [v[7:0], v[15:8]]` (R9, R41). -/
def bytesLe16 (v : Half) : List Byte := [v.extractLsb' 0 8, v.extractLsb' 8 8]

/-- The 15 device registers of R37. -/
inductive DevReg where
  /-- Part ID. -/
  | partId
  /-- Operating mode. -/
  | opmode
  /-- Interrupt configuration. -/
  | config
  /-- Command. -/
  | command
  /-- Temperature compensation input. -/
  | tempIn
  /-- Humidity compensation input. -/
  | rhIn
  /-- Status. -/
  | status
  /-- AQI, low 3 bits significant. -/
  | aqi
  /-- TVOC ppb. -/
  | tvoc
  /-- eCO2 ppm. -/
  | eco2
  /-- Temperature used internally. -/
  | dataT
  /-- Humidity used internally. -/
  | dataRh
  /-- Checksum of prior read transaction. -/
  | misr
  /-- General-purpose write registers. -/
  | gprWrite
  /-- General-purpose read registers. -/
  | gprRead
  deriving DecidableEq, Repr

/-- The register addresses of R37. -/
def DevReg.addr : DevReg → Byte
  | .partId => 0x00
  | .opmode => 0x10
  | .config => 0x11
  | .command => 0x12
  | .tempIn => 0x13
  | .rhIn => 0x15
  | .status => 0x20
  | .aqi => 0x21
  | .tvoc => 0x22
  | .eco2 => 0x24
  | .dataT => 0x30
  | .dataRh => 0x32
  | .misr => 0x38
  | .gprWrite => 0x40
  | .gprRead => 0x48

/-- The register widths of R37, in bytes. -/
def DevReg.width : DevReg → Nat
  | .partId => 2
  | .opmode => 1
  | .config => 1
  | .command => 1
  | .tempIn => 2
  | .rhIn => 2
  | .status => 1
  | .aqi => 1
  | .tvoc => 2
  | .eco2 => 2
  | .dataT => 2
  | .dataRh => 2
  | .misr => 1
  | .gprWrite => 8
  | .gprRead => 8

/-- The access mark the document gives a register (R46). -/
inductive Access where
  /-- Marked "(read)". -/
  | read
  /-- Marked "(write)". -/
  | write
  /-- No mark. -/
  | unmarked
  deriving DecidableEq, Repr

/-- The access marks of R46. -/
def DevReg.access : DevReg → Access
  | .partId => .unmarked
  | .opmode => .write
  | .config => .write
  | .command => .write
  | .tempIn => .write
  | .rhIn => .write
  | .status => .read
  | .aqi => .read
  | .tvoc => .read
  | .eco2 => .read
  | .dataT => .read
  | .dataRh => .read
  | .misr => .read
  | .gprWrite => .unmarked
  | .gprRead => .unmarked

/-- All registers of the map, in the order of R37. -/
def DevReg.all : List DevReg :=
  [.partId, .opmode, .config, .command, .tempIn, .rhIn, .status, .aqi] ++
  [.tvoc, .eco2, .dataT, .dataRh, .misr, .gprWrite, .gprRead]

/-- The two frame shapes (R61), before the device address is put to them. -/
inductive Frame where
  /-- Shape W: `[register] ++ payload`. -/
  | w (reg : Byte) (payload : List Byte)
  /-- Shape R: write `[register]`, then read `n` bytes. -/
  | r (reg : Byte) (n : Nat)
  deriving DecidableEq, Repr

/-- `MemWrite(a, n, v)` (R32): one bus write of `[a] ++ v`; `n` is the length of `v`. -/
def memWrite (reg : DevReg) (payload : List Byte) : Frame := .w reg.addr payload

/-- `MemRead(a, n)` (R33): one bus write-then-read, writing `[a]` and reading exactly `n` bytes. -/
def memRead (reg : DevReg) (n : Nat) : Frame := .r reg.addr n

/-- The transaction of a frame, addressed to the device `addr` (R32 to R34, R61). -/
def Frame.txn (addr : DevAddr) : Frame → Txn
  | .w reg payload => .w addr ([reg] ++ payload)
  | .r reg n => .wr addr [reg] n

/-- The answer a draw of the oracle gives a request (R29 to R31): `ok` or `err(e)` to a write, exactly `n`
bytes or `err(e)` to a read of `n` bytes. -/
def Txn.answer (t : Txn) : Draw → Answer
  | .failure e => .err e
  | .success b0 b1 b2 b3 =>
    match t with
    | .w _ _ => .ok
    | .wr _ _ n => .okBytes ([b0, b1, b2, b3].take n)

end Sys2Proof.Machine
end

