-- ==== Sys2Proof/Machine/Ops.lean ====
section
/-!
DEFINITION. The shared operations: the atomic steps ACCEPT, ISSUE, COMPLETE and CANCEL of
45_execution_model.md R120 to R124, and the abnormal end of an operation (60_exceptions.md R141), which
is this block's way of taking an exception. Every meaning is one call of `runBus` or `runNow`.
-/

namespace Sys2Proof.Machine

open Host (Outcome)

/-- Replace the block's state and leave everything outside it alone. -/
def State.withSeq (s : State) (q : Seq) : State := { s with seq := q }

/-- Deliver a response (R57). -/
def State.respond (s : State) (r : Response) : State := { s with responses := s.responses ++ [r] }

/-- The latching of an accepted word: the last two lines of ACCEPT (R121); now `READY(0)`. -/
def Seq.latch (q : Seq) (cw : CmdWord) : Seq :=
  { q with busy := true, curOp := CmdWord.op cw, curArg := CmdWord.arg cw, stepIdx := 0, rx := [], inflight := none }

/-- The effect of ISSUE with the descriptor `t` (R122); now `WAIT(k)`. -/
def Seq.issue (q : Seq) (t : Txn) : Seq :=
  { q with inflight := some t, trace := q.trace ++ [.issue t] }

/-- `S.inflight <- none` and the event that closes the outstanding transaction (R123, R124). -/
def Seq.close (q : Seq) (e : Event) : Seq :=
  { q with inflight := none, trace := q.trace ++ [e] }

/-- `S.rx <- rbytes` (R123). -/
def Seq.receive (q : Seq) (bs : List Byte) : Seq := { q with rx := bs }

/-- `pc <- k + 1` (R123). -/
def Seq.nextTxn (q : Seq) : Seq := { q with stepIdx := q.stepIdx + 1 }

/-- Why an operation ends abnormally (R133, R134). -/
inductive Cause where
  /-- The transport answered `err(e)` (R135). -/
  | bus (e : TErr)
  /-- The eCO2 value `v` is below 400 (R136). -/
  | conv (v : Half)
  /-- A boundary refusal (R137). -/
  | refuse (r : Reason)
  deriving DecidableEq, Repr

/-- The response a cause gives (R134). -/
def Cause.response : Cause → Response
  | .bus e => .busError e
  | .conv v => .convError v
  | .refuse r => .refused r

/-- What the abnormal end does to `S` (R141): a `BUS_ERROR` closes the outstanding transaction with
`Done(err, e)` and makes the block `IDLE`; for `CONV_ERROR` and `REFUSED` "no field of `S` changes at
all". Nothing is saved and there is nothing to return from (R144). -/
def Cause.endSeq (c : Cause) (q : Seq) : Seq :=
  match c with
  | .bus e => (q.close (.doneErr e)).endOp
  | .conv _ => q
  | .refuse _ => q

/-- THE ABNORMAL END OF AN OPERATION (R141), this block's only exception entry. -/
def State.abnormalEnd (s : State) (c : Cause) : State :=
  (s.withSeq (c.endSeq s.seq)).respond c.response

/-- The plan of an operation that issues transactions: its word, whether its operand is in the domain of
R107, its frames in order (30_encoding.md R62), and its result from the bytes read (R126). -/
structure BusOp where
  /-- The command word that ACCEPT latches. -/
  word : CmdWord
  /-- The operand-range check (R76 (3)). -/
  inRange : Bool
  /-- The frames, in the order they are issued. -/
  frames : List Frame
  /-- `finish(op, rx)`; `none` when `rx` is too short. -/
  finish : List Byte → Option OpResult

/-- `nsteps` of a plan (R125). -/
def BusOp.nsteps (p : BusOp) : Nat := p.frames.length

/-- ACCEPT of an operation with transactions (R121): ownership, then operand range (R139), then latch. -/
def acceptBus (p : BusOp) (s : State) : State :=
  match Ownership.needed.refusal s.seq.owned with
  | some r => s.abnormalEnd (.refuse r)
  | none =>
    if p.inRange then s.withSeq (s.seq.latch p.word)
    else s.abnormalEnd (.refuse .operandRange)

/-- ISSUE (R122): hand transaction `S.step` of the plan to the transport. -/
def issueTxn (p : BusOp) (s : State) : Outcome State Fault Refusal :=
  match s.seq.devAddr with
  | none => .fault .noDeviceAddress
  | some addr =>
    match p.frames[s.seq.stepIdx.toNat]? with
    | none => .fault .noTransaction
    | some f => .next (s.withSeq (s.seq.issue (f.txn addr)))

/-- What follows a successful answer, once it is recorded in `S` (R123): the next transaction, or the
response `OK` and `IDLE`. -/
def afterSuccess (p : BusOp) (s : State) : Outcome State Fault Refusal :=
  if s.seq.stepIdx.toNat + 1 < p.nsteps then .next (s.withSeq s.seq.nextTxn)
  else
    match p.finish s.seq.rx with
    | none => .fault .shortRead
    | some r => .next ((s.withSeq s.seq.endOp).respond (.ok r))

/-- COMPLETE(ans) (R123). -/
def completeTxn (p : BusOp) (s : State) (ans : Answer) : Outcome State Fault Refusal :=
  match ans with
  | .err e => .next (s.abnormalEnd (.bus e))
  | .ok => afterSuccess p (s.withSeq (s.seq.close .doneOk))
  | .okBytes bs => afterSuccess p (s.withSeq ((s.seq.receive bs).close (.doneBytes bs)))

/-- The transport's move in `WAIT(k)` on the outstanding `t`: it answers (R123), or delivers a late answer
that is discarded (R124), or never answers, and then the block stays as it is (R131). -/
def awaitAnswer (p : BusOp) (t : Txn) (s : State) : Outcome State Fault Refusal :=
  match s.transport with
  | [] => .next s
  | .late _ :: rest => .next { s with transport := rest }
  | .answer d :: rest => completeTxn p { s with transport := rest } (t.answer d)

/-- The next atomic step of an operation with transactions: ACCEPT in `IDLE`, ISSUE in `READY(k)`,
COMPLETE in `WAIT(k)` (R120). A block busy with another word has no such step (R130). -/
def runBus (p : BusOp) (s : State) : Outcome State Fault Refusal :=
  match s.seq.ctrl with
  | .idle => .next (acceptBus p s)
  | .ready _ => if s.seq.latched = p.word then issueTxn p s else .fault .presentedWhileBusy
  | .wait _ t => if s.seq.latched = p.word then awaitAnswer p t s else .fault .presentedWhileBusy

/-- The one step of an operation with no transaction: ACCEPT, in which the ownership is checked and the
operation's `effect`, its response included, is performed; the block stays `IDLE` (R121). -/
def runNow (o : Ownership) (effect : State → State) (s : State) : Outcome State Fault Refusal :=
  match s.seq.ctrl with
  | .idle =>
    match o.refusal s.seq.owned with
    | some r => .next (s.abnormalEnd (.refuse r))
    | none => .next (effect s)
  | .ready _ => .fault .presentedWhileBusy
  | .wait _ _ => .fault .presentedWhileBusy

/-- CANCEL on `S` (R124): an outstanding transaction is `Abandoned`, the block is `IDLE`, and no response
is delivered. -/
def Seq.cancel (q : Seq) : Seq :=
  match q.inflight with
  | none => { q with inflight := none, busy := false }
  | some _ => (q.close .abandoned).endOp

end Sys2Proof.Machine
end

