-- ==== Sys2Proof/Machine/Lifecycle.lean ====
section
/-!
DEFINITION. INIT and RELEASE (40_lifecycle.md R77, R78): the construction and the release of the device
handle. Neither issues a transaction.
-/

namespace Sys2Proof.Machine

open Host (Outcome)

/-- `INIT a` (R77): take the transport and the address; refused `ALREADY_OWNED` when a handle exists. -/
def execInit (a : DevAddr) (s : State) : Outcome State Fault Refusal :=
  runNow .absent (fun s => (s.withSeq (s.seq.takeHandle a)).respond (.ok .unit)) s

/-- `RELEASE` (R78): give the transport back; refused `NOT_OWNED` when there is no handle. -/
def execRelease (s : State) : Outcome State Fault Refusal :=
  runNow .needed (fun s => (s.withSeq s.seq.dropHandle).respond (.ok .unit)) s

end Sys2Proof.Machine
end

