-- ==== Sys2Proof/Machine/Codec.lean ====
section
/-!
DEFINITION. The bit-codec: the status decoder and the interrupt-configuration encoder (44_bitcodec.md
R109, R110, R113), and the decoder of the AQI register (42_measurement.md R90).
-/

namespace Sys2Proof.Machine

/-- `validity_decode(c)`, total on the 2-bit values (R110). -/
def validityDecode (c : BitVec 2) : Validity :=
  match c.toNat with
  | 0 => .normalOperation
  | 1 => .warmupPhase
  | 2 => .initStartupPhase
  | _ => .invalidOutput

/-- The 2-bit code of a validity (R66). -/
def Validity.code : Validity → BitVec 2
  | .normalOperation => 0
  | .warmupPhase => 1
  | .initStartupPhase => 2
  | .invalidOutput => 3

/-- `status_decode(x)` (R109): bits 5 and 4 have no field. -/
def statusDecode (x : Byte) : StatusRec where
  runningNormally := x.getLsbD 7
  error := x.getLsbD 6
  validity := validityDecode (x.extractLsb' 2 2)
  dataReady := x.getLsbD 1
  newDataInGpr := x.getLsbD 0

/-- The contribution of one field of the interrupt configuration: `field << position` (R116). -/
def fieldAt (b : Bool) (pos : Nat) : Byte := (BitVec.ofBool b).setWidth 8 <<< pos

/-- `intcfg_encode(c)` (R113): bits 7, 4 and 2 stay 0. -/
def intcfgEncode (c : IntCfg) : Byte :=
  0x00 ||| fieldAt c.en 0 ||| fieldAt c.onDrdy 1 ||| fieldAt c.onGpr 3 |||
    fieldAt c.drive.bit 5 ||| fieldAt c.polarity.bit 6

/-- The ordinal of an AQI category (R69). -/
def Aqi.code : Aqi → BitVec 3
  | .excellent => 1
  | .good => 2
  | .moderate => 3
  | .poor => 4
  | .unhealthy => 5

/-- `aqi_from_reg(x)` (R90): masked with 0x07; 0, 6 and 7 fall back to Unhealthy. -/
def aqiFromReg (x : Byte) : Aqi :=
  match (x &&& 0x07).toNat with
  | 1 => .excellent
  | 2 => .good
  | 3 => .moderate
  | 4 => .poor
  | _ => .unhealthy

end Sys2Proof.Machine
end

