-- ==== Sys2Proof/Machine/Conversion.lean ====
section
/-!
DEFINITION. The unit-scale converter (43_conversion.md R94 to R99), on mathematical integers: no
intermediate wraps or saturates (R10, R94).
-/

namespace Sys2Proof.Machine

/-- `tdiv(a, b)` for `b > 0` (R10): `floor(a / b)` for `a >= 0` and `-floor((-a) / b)` for `a < 0`. -/
def tdiv (a b : Int) : Int := if 0 ≤ a then a / b else -((-a) / b)

/-- `temp_raw_to_scaled(r) = tdiv(r * 100, 64) - 27315` (R95). -/
def tempRawToScaled (r : Int) : Int := tdiv (r * 100) 64 - 27315

/-- `temp_scaled_to_raw(t) = tdiv((t + 27315) * 64, 100)` (R96). -/
def tempScaledToRaw (t : Int) : Int := tdiv ((t + 27315) * 64) 100

/-- `hum_raw_to_scaled(r) = tdiv(r * 100, 512)` (R97). -/
def humRawToScaled (r : Int) : Int := tdiv (r * 100) 512

/-- `hum_scaled_to_raw(u) = tdiv(u * 512, 100)` (R98). -/
def humScaledToRaw (u : Int) : Int := tdiv (u * 512) 100

/-- `eco2_to_aqi(v)` (R99); `error v` is `raise ConvError(v)`. -/
def eco2Aqi (v : Nat) : Except Nat Aqi :=
  if v < 400 then .error v
  else if v ≤ 599 then .ok .excellent
  else if v ≤ 799 then .ok .good
  else if v ≤ 999 then .ok .moderate
  else if v ≤ 1499 then .ok .poor
  else .ok .unhealthy

/-- The raw value fits the two bytes of a compensation register (R107). -/
def fitsRaw (raw : Int) : Bool := decide (0 ≤ raw ∧ raw ≤ 65535)

/-- The two payload bytes of a raw compensation value, low byte first (R104, R105). The narrowing to 16
bits is exact when `fitsRaw raw`. -/
def rawPayload (raw : Int) : List Byte := bytesLe16 (BitVec.ofInt 16 raw)

end Sys2Proof.Machine
end

