-- ==== Sys2Proof/Machine/Measurement.lean ====
section
/-!
DEFINITION. The measurement accessors (42_measurement.md R87 to R93): STATUS, AIRQUALITY_INDEX, TVOC,
ECO2, TEMP_AND_HUM. Each is one read and a pure decode.
-/

namespace Sys2Proof.Machine

open Host (Outcome)

/-- `ACCESSOR(a, n, dec)` (R87). -/
def accessor (i : Instr) (reg : DevReg) (n : Nat) (dec : List Byte → Option OpResult) : BusOp where
  word := encode i
  inRange := true
  frames := [memRead reg n]
  finish := dec

/-- `b => status_decode(b[0])` (R88). -/
def finishStatus : List Byte → Option OpResult
  | b0 :: _ => some (.status (statusDecode b0))
  | [] => none

/-- `b => aqi_from_reg(b[0])` (R89). -/
def finishAqi : List Byte → Option OpResult
  | b0 :: _ => some (.aqi (aqiFromReg b0))
  | [] => none

/-- `b => le16(b[0], b[1])` (R91, R92): no check and no scaling. -/
def finishCount : List Byte → Option OpResult
  | b0 :: b1 :: _ => some (.count (le16 b0 b1))
  | _ => none

/-- The two conversions of `TEMP_AND_HUM` (R93): the results are carried as i32 and u16 (R100). -/
def finishTempHum : List Byte → Option OpResult
  | b0 :: b1 :: b2 :: b3 :: _ =>
    some (.tempHum (BitVec.ofInt 32 (tempRawToScaled (le16 b0 b1).toNat))
      (BitVec.ofInt 16 (humRawToScaled (le16 b2 b3).toNat)))
  | _ => none

/-- The plan of `STATUS` (R88). -/
def opStatus : BusOp := accessor .status .status 1 finishStatus

/-- The plan of `AIRQUALITY_INDEX` (R89). -/
def opAirqualityIndex : BusOp := accessor .airqualityIndex .aqi 1 finishAqi

/-- The plan of `TVOC` (R91). -/
def opTvoc : BusOp := accessor .tvoc .tvoc 2 finishCount

/-- The plan of `ECO2` (R92). -/
def opEco2 : BusOp := accessor .eco2 .eco2 2 finishCount

/-- The plan of `TEMP_AND_HUM` (R93): one 4-byte transaction over `REG_DATA_T` and `REG_DATA_RH` (R42). -/
def opTempAndHum : BusOp := accessor .tempAndHum .dataT 4 finishTempHum

/-- `STATUS` (R88). -/
def execStatus (s : State) : Outcome State Fault Refusal := runBus opStatus s

/-- `AIRQUALITY_INDEX` (R89). -/
def execAirqualityIndex (s : State) : Outcome State Fault Refusal := runBus opAirqualityIndex s

/-- `TVOC` (R91). -/
def execTvoc (s : State) : Outcome State Fault Refusal := runBus opTvoc s

/-- `ECO2` (R92). -/
def execEco2 (s : State) : Outcome State Fault Refusal := runBus opEco2 s

/-- `TEMP_AND_HUM` (R93). -/
def execTempAndHum (s : State) : Outcome State Fault Refusal := runBus opTempAndHum s

end Sys2Proof.Machine
end

