-- ==== Sys2Proof/Machine/ModeCommand.lean ====
section
/-!
DEFINITION. The mode and command operations (41_mode_command.md R79 to R86): RESET, IDLE, DEEP_SLEEP,
OPERATIONAL, CLEAR_COMMAND, FIRMWARE_VERSION.
-/

namespace Sys2Proof.Machine

open Host (Outcome)

/-- The device's operating modes (30_encoding.md R63). -/
inductive Mode where
  /-- 0x00. -/
  | sleep
  /-- 0x01. -/
  | idle
  /-- 0x02, "Standard (measuring)". -/
  | standard
  /-- 0xF0. -/
  | reset
  deriving DecidableEq, Repr

/-- The mode codes (R63). -/
def Mode.code : Mode → Byte
  | .sleep => 0x00
  | .idle => 0x01
  | .standard => 0x02
  | .reset => 0xF0

/-- The result of an operation that returns none (R59, last row). -/
def noResult (_ : List Byte) : Option OpResult := some .unit

/-- `MODE_WRITE(code)` (R79): one one-byte write to the operating-mode register. -/
def modeWrite (i : Instr) (m : Mode) : BusOp where
  word := encode i
  inRange := true
  frames := [memWrite .opmode [m.code]]
  finish := noResult

/-- The plan of `RESET` (R80). -/
def opReset : BusOp := modeWrite .reset .reset

/-- The plan of `IDLE` (R81). -/
def opIdle : BusOp := modeWrite .idle .idle

/-- The plan of `DEEP_SLEEP` (R82, paired by R63). -/
def opDeepSleep : BusOp := modeWrite .deepSleep .sleep

/-- The plan of `OPERATIONAL` (R83, paired by R63). -/
def opOperational : BusOp := modeWrite .operational .standard

/-- The plan of `CLEAR_COMMAND` (R84): No-op, then Clear, to the command register. -/
def opClearCommand : BusOp where
  word := encode .clearCommand
  inRange := true
  frames := [memWrite .command [Config.cmdNop], memWrite .command [Config.cmdClear]]
  finish := noResult

/-- The result of `FIRMWARE_VERSION`: the three bytes as (major, minor, patch), in that order (R85). -/
def finishFirmware : List Byte → Option OpResult
  | major :: minor :: patch :: _ => some (.firmware major minor patch)
  | _ => none

/-- The plan of `FIRMWARE_VERSION` (R85). -/
def opFirmwareVersion : BusOp where
  word := encode .firmwareVersion
  inRange := true
  frames := [memWrite .command [Config.cmdGetFw], memRead .gprRead 3]
  finish := finishFirmware

/-- `RESET` (R80): the device's Reset mode, not a reset of the block (R154). -/
def execReset (s : State) : Outcome State Fault Refusal := runBus opReset s

/-- `IDLE` (R81). -/
def execIdle (s : State) : Outcome State Fault Refusal := runBus opIdle s

/-- `DEEP_SLEEP` (R82). -/
def execDeepSleep (s : State) : Outcome State Fault Refusal := runBus opDeepSleep s

/-- `OPERATIONAL` (R83). -/
def execOperational (s : State) : Outcome State Fault Refusal := runBus opOperational s

/-- `CLEAR_COMMAND` (R84). -/
def execClearCommand (s : State) : Outcome State Fault Refusal := runBus opClearCommand s

/-- `FIRMWARE_VERSION` (R85). -/
def execFirmwareVersion (s : State) : Outcome State Fault Refusal := runBus opFirmwareVersion s

end Sys2Proof.Machine
end

