-- ==== Sys2Proof/Machine/Setters.lean ====
section
/-!
DEFINITION. The operations that take a value: SET_TEMP, SET_HUM, ECO2_TO_AQI (43_conversion.md R104 to
R107) and SET_INTCFG (44_bitcodec.md R115).
-/

namespace Sys2Proof.Machine

open Host (Outcome)

/-- The plan of a write of a raw compensation value, refused when it does not fit (R107). -/
def compensationWrite (i : Instr) (reg : DevReg) (raw : Int) : BusOp where
  word := encode i
  inRange := fitsRaw raw
  frames := [memWrite reg (rawPayload raw)]
  finish := noResult

/-- The plan of `SET_TEMP t` (R104). -/
def opSetTemp (t : Int) : BusOp := compensationWrite (.setTemp t) .tempIn (tempScaledToRaw t)

/-- The plan of `SET_HUM u` (R105). -/
def opSetHum (u : Nat) : BusOp := compensationWrite (.setHum u) .rhIn (humScaledToRaw u)

/-- The plan of `SET_INTCFG c` (R115): a full overwrite of the configuration register. -/
def opSetIntcfg (c : IntCfg) : BusOp where
  word := encode (.setIntcfg c)
  inRange := true
  frames := [memWrite .config [intcfgEncode c]]
  finish := noResult

/-- `SET_TEMP t` (R104). -/
def execSetTemp (t : Int) (s : State) : Outcome State Fault Refusal := runBus (opSetTemp t) s

/-- `SET_HUM u` (R105). -/
def execSetHum (u : Nat) (s : State) : Outcome State Fault Refusal := runBus (opSetHum u) s

/-- The effect of `ECO2_TO_AQI v`: `OK` with the category, or `CONV_ERROR(v)` (R106, R136). -/
def classify (v : Nat) (s : State) : State :=
  match eco2Aqi v with
  | .ok a => s.respond (.ok (.aqi a))
  | .error x => s.abnormalEnd (.conv (BitVec.ofNat 16 x))

/-- `ECO2_TO_AQI v` (R106): pure, with or without a handle. -/
def execEco2ToAqi (v : Nat) (s : State) : Outcome State Fault Refusal := runNow .any (classify v) s

/-- `SET_INTCFG c` (R115). -/
def execSetIntcfg (c : IntCfg) (s : State) : Outcome State Fault Refusal := runBus (opSetIntcfg c) s

end Sys2Proof.Machine
end

