-- ==== Sys2Proof/Machine/Dispatch.lean ====
section
/-!
DEFINITION. The dispatch: one arm for each operation of 30_encoding.md R56. `exec i s` is the next atomic
step of operation `i` in `s`: its ACCEPT when the block is `IDLE`, its ISSUE or COMPLETE when the block is
busy with it (45_execution_model.md R120 to R123).
-/

namespace Sys2Proof.Machine

open Host

def exec (i : Instr) (s : State) : Host.Outcome State Fault Refusal :=
  match i with
  | .init a => Sys2Proof.Machine.execInit a s
  | .release => Sys2Proof.Machine.execRelease s
  | .reset => Sys2Proof.Machine.execReset s
  | .idle => Sys2Proof.Machine.execIdle s
  | .deepSleep => Sys2Proof.Machine.execDeepSleep s
  | .operational => Sys2Proof.Machine.execOperational s
  | .clearCommand => Sys2Proof.Machine.execClearCommand s
  | .firmwareVersion => Sys2Proof.Machine.execFirmwareVersion s
  | .status => Sys2Proof.Machine.execStatus s
  | .airqualityIndex => Sys2Proof.Machine.execAirqualityIndex s
  | .tvoc => Sys2Proof.Machine.execTvoc s
  | .eco2 => Sys2Proof.Machine.execEco2 s
  | .tempAndHum => Sys2Proof.Machine.execTempAndHum s
  | .setTemp t => Sys2Proof.Machine.execSetTemp t s
  | .setHum u => Sys2Proof.Machine.execSetHum u s
  | .eco2ToAqi v => Sys2Proof.Machine.execEco2ToAqi v s
  | .setIntcfg c => Sys2Proof.Machine.execSetIntcfg c s

end Sys2Proof.Machine
end

