-- ==== Sys2Proof/Machine/Scheduler.lean ====
section
/-!
DEFINITION. Which of the three agents moves (45_execution_model.md R119, R120): the host, the sequencer or
the transport. The moves to come are plain data in State, so a step is a function of the state.
-/

namespace Sys2Proof.Machine

open Host (Outcome)

/-- ACCEPT(cw) in `IDLE` (R121): an `Illegal` word is refused with `ILLEGAL_OP`, any other is executed. -/
def acceptWord (cw : CmdWord) (s : State) : Outcome State Fault Refusal :=
  match decode cw with
  | .error _ => .next (s.abnormalEnd (.refuse .illegalOp))
  | .ok i => exec i s

/-- The move of the sequencer or the transport while an operation is in progress: ISSUE in `READY(k)`,
COMPLETE in `WAIT(k)`, of the operation whose word is latched (R122, R123). -/
def advance (s : State) : Outcome State Fault Refusal :=
  match decode s.seq.latched with
  | .error _ => .fault .latchedWordIllegal
  | .ok i => exec i s

/-- CANCEL (R124). -/
def cancelOp (s : State) : State := s.withSeq s.seq.cancel

/-- One step of a busy block. The host may CANCEL under `SUSPENDING`; under `BLOCKING` that move does not
exist, and one listed is passed over (R124, R128). A host that would present a word has no move and waits
(R130). -/
def stepBusy (v : ExecVariant) (s : State) : Outcome State Fault Refusal :=
  match s.host with
  | .cancel :: rest =>
    match v with
    | .suspending => .next (cancelOp { s with host := rest })
    | .blocking => advance { s with host := rest }
  | .pass :: rest => advance { s with host := rest }
  | .present _ :: _ => advance s
  | [] => advance s

/-- One step of an `IDLE` block: only ACCEPT is enabled (R120). A CANCEL listed here is no move of the
host and is passed over; with nothing to present the block sits `IDLE` (R152). -/
def stepIdle (s : State) : Outcome State Fault Refusal :=
  match s.host with
  | .present cw :: rest => acceptWord cw { s with host := rest }
  | .cancel :: rest => .next { s with host := rest }
  | .pass :: rest => .next { s with host := rest }
  | [] => .next s

/-- One step of the block built as variant `v` (R6, R120). -/
def stepWith (v : ExecVariant) (s : State) : Outcome State Fault Refusal :=
  if s.seq.busy then stepBusy v s else stepIdle s

/-- `n` steps of the block built as variant `v`, stopping at a fault or a refusal. -/
def runWith (v : ExecVariant) : Nat → State → Outcome State Fault Refusal
  | 0, s => .next s
  | n + 1, s =>
    match stepWith v s with
    | .next s' => runWith v n s'
    | .fault r => .fault r
    | .refused r => .refused r

/-- The host presents `cw` next, to a block with no operation in progress. -/
def State.presenting (s : State) (cw : CmdWord) : State :=
  { s with seq := { s.seq with busy := false, inflight := none }, host := .present cw :: s.host }

end Sys2Proof.Machine
end

