-- ==== Sys2Proof/Machine/Step.lean ====
section
/-!
DEFINITION. The step of the machine, and how the host's checks present a word to it. There is no
instruction memory and no fetch (20_memory.md R51): a word reaches the block when the host presents it.
-/

namespace Sys2Proof.Machine

/-- One step of the block, built as the variant `EXEC_VARIANT` (R6, R120). -/
def step (s : State) : Host.Outcome State Fault Refusal := stepWith Config.execVariant s

/-- `s` with the word `w` presented next. A word is accepted only in `IDLE` (R130), so the block is put
there; a word has 40 bits, and those from `nbits` up are 0. -/
def State.withFetchWord (s : State) (nbits w : Nat) : State :=
  s.presenting (BitVec.ofNat 40 (w % 2 ^ nbits))

end Sys2Proof.Machine
end

