-- ==== Sys2Proof/Machine/Assembly.lean ====
section
/-!
DEFINITION. The textual syntax of an operation (30_encoding.md R56, R74, R75): one line is one command
word, and there are no pseudo-operations.
-/

namespace Sys2Proof.Machine

/-- The mnemonic (R56). -/
def mnemonic : Instr → String
  | .init _ => "INIT"
  | .release => "RELEASE"
  | .reset => "RESET"
  | .idle => "IDLE"
  | .deepSleep => "DEEP_SLEEP"
  | .operational => "OPERATIONAL"
  | .clearCommand => "CLEAR_COMMAND"
  | .firmwareVersion => "FIRMWARE_VERSION"
  | .status => "STATUS"
  | .airqualityIndex => "AIRQUALITY_INDEX"
  | .tvoc => "TVOC"
  | .eco2 => "ECO2"
  | .tempAndHum => "TEMP_AND_HUM"
  | .setTemp _ => "SET_TEMP"
  | .setHum _ => "SET_HUM"
  | .eco2ToAqi _ => "ECO2_TO_AQI"
  | .setIntcfg _ => "SET_INTCFG"

/-- A hexadecimal digit, in capitals. -/
def hexDigit (n : Nat) : String :=
  String.ofList [Char.ofNat (if n < 10 then 48 + n else 55 + n)]

/-- The operand of `INIT`, in hexadecimal (R74). -/
def hexByte (n : Nat) : String := "0x" ++ hexDigit (n / 16 % 16) ++ hexDigit (n % 16)

/-- The tokens of a `SET_INTCFG` operand: a field that is 1 has its token, a field that is 0 none (R74). -/
def intCfgTokens (c : IntCfg) : List String :=
  (if c.en then ["en"] else []) ++ (if c.onDrdy then ["on_drdy"] else []) ++
  (if c.onGpr then ["on_gpr"] else []) ++ (if c.polarity.bit then ["active_high"] else []) ++
  (if c.drive.bit then ["push_pull"] else [])

/-- The comma-separated set of tokens, between an opening and a closing brace (characters 123, 125). -/
def intCfgText (c : IntCfg) : String :=
  String.ofList [Char.ofNat 123] ++ String.intercalate ", " (intCfgTokens c) ++
    String.ofList [Char.ofNat 125]

/-- The operand of an operation, if its sub-format has one (R74). -/
def operandText : Instr → Option String
  | .init a => some (hexByte a.toNat)
  | .setTemp t => some (toString t)
  | .setHum u => some (toString u)
  | .eco2ToAqi v => some (toString v)
  | .setIntcfg c => some (intCfgText c)
  | .release => none
  | .reset => none
  | .idle => none
  | .deepSleep => none
  | .operational => none
  | .clearCommand => none
  | .firmwareVersion => none
  | .status => none
  | .airqualityIndex => none
  | .tvoc => none
  | .eco2 => none
  | .tempAndHum => none

/-- One line of a program: the mnemonic, then the operand if there is one (R74). -/
def assemblyLine (i : Instr) : String :=
  match operandText i with
  | none => mnemonic i
  | some o => mnemonic i ++ " " ++ o

end Sys2Proof.Machine
end

