-- ==== Sys2Proof/Machine/Packing.lean ====
section
/-!
DEFINITION. The response record `(kind, info, data)` (30_encoding.md R57 to R59): how the typed response
of `State.responses` is laid out on the response port.
-/

namespace Sys2Proof.Machine

/-- The width of `info`: max(`TERR_W`, 16) bits (R57). -/
def infoWidth : Nat := max Config.terrWidth 16

/-- The packed response record (R57). -/
structure Packed where
  /-- 0 `OK`, 1 `BUS_ERROR`, 2 `CONV_ERROR`, 3 `REFUSED`. -/
  kind : BitVec 2
  /-- The error's value, zero-extended; 0 for `OK`. -/
  info : BitVec infoWidth
  /-- The packed result for `OK`; otherwise 0. -/
  data : BitVec 64
  deriving DecidableEq, Repr

/-- The reason codes (R58). -/
def Reason.code : Reason → BitVec 16
  | .illegalOp => 1
  | .notOwned => 2
  | .alreadyOwned => 3
  | .operandRange => 4

/-- One bit of `data`. -/
def dataBit (b : Bool) (pos : Nat) : BitVec 64 := (BitVec.ofBool b).setWidth 64 <<< pos

/-- The packing of a typed result into `data` (R59); bits not named are 0. -/
def OpResult.pack : OpResult → BitVec 64
  | .unit => 0
  | .status r => dataBit r.newDataInGpr 0 ||| dataBit r.dataReady 1 |||
      (r.validity.code.setWidth 64 <<< 2) ||| dataBit r.error 4 ||| dataBit r.runningNormally 5
  | .aqi a => a.code.setWidth 64
  | .count v => v.setWidth 64
  | .tempHum t h => t.setWidth 64 ||| (h.setWidth 64 <<< 32)
  | .firmware major minor patch =>
      major.setWidth 64 ||| (minor.setWidth 64 <<< 8) ||| (patch.setWidth 64 <<< 16)

/-- The packing of a response (R57, R134). -/
def Response.pack : Response → Packed
  | .ok r => ⟨0, 0, r.pack⟩
  | .busError e => ⟨1, (Config.packTErr e).setWidth infoWidth, 0⟩
  | .convError v => ⟨2, v.setWidth infoWidth, 0⟩
  | .refused r => ⟨3, r.code.setWidth infoWidth, 0⟩

end Sys2Proof.Machine
end

