-- ==== Sys2Proof/Machine/Plan.lean ====
section
/-!
DEFINITION. The transaction plan of each operation as functions (45_execution_model.md R125, R126), and
the big-step reading of an operation (R132).
-/

namespace Sys2Proof.Machine

/-- The plan of an operation; `none` for the three operations with no transaction (R125). -/
def planOf : Instr → Option BusOp
  | .init _ => none
  | .release => none
  | .reset => some opReset
  | .idle => some opIdle
  | .deepSleep => some opDeepSleep
  | .operational => some opOperational
  | .clearCommand => some opClearCommand
  | .firmwareVersion => some opFirmwareVersion
  | .status => some opStatus
  | .airqualityIndex => some opAirqualityIndex
  | .tvoc => some opTvoc
  | .eco2 => some opEco2
  | .tempAndHum => some opTempAndHum
  | .setTemp t => some (opSetTemp t)
  | .setHum u => some (opSetHum u)
  | .eco2ToAqi _ => none
  | .setIntcfg c => some (opSetIntcfg c)

/-- `nsteps(m)` (R125). -/
def nsteps (i : Instr) : Nat :=
  match planOf i with
  | none => 0
  | some p => p.nsteps

/-- `txn(op, arg, k)` with the device address `a` (R125). -/
def txnAt (i : Instr) (a : DevAddr) (k : Nat) : Option Txn :=
  match planOf i with
  | none => none
  | some p => p.frames[k]?.map (Frame.txn a)

/-- The response of an operation with no transaction, which ACCEPT gives at once (R121, R139); `none` for
the operations that have transactions. -/
def immediateResponse (i : Instr) (owned : Bool) : Option Response :=
  match i with
  | .init _ => some (if owned then .refused .alreadyOwned else .ok .unit)
  | .release => some (if owned then .ok .unit else .refused .notOwned)
  | .eco2ToAqi v =>
    match eco2Aqi v with
    | .ok a => some (.ok (.aqi a))
    | .error x => some (.convError (BitVec.ofNat 16 x))
  | .reset => none
  | .idle => none
  | .deepSleep => none
  | .operational => none
  | .clearCommand => none
  | .firmwareVersion => none
  | .status => none
  | .airqualityIndex => none
  | .tvoc => none
  | .eco2 => none
  | .tempAndHum => none
  | .setTemp _ => none
  | .setHum _ => none
  | .setIntcfg _ => none

/-- The loop of R132 over the frames that are left: the transactions issued, and the response, `none` when
the answers run out before the operation ends. -/
def runFrames (p : BusOp) (a : DevAddr) : List Frame → List Byte → List Draw → List Txn × Option Response
  | [], rx, _ => ([], (p.finish rx).map .ok)
  | f :: _, _, [] => ([f.txn a], none)
  | f :: fs, rx, d :: ds =>
    match (f.txn a).answer d with
    | .err e => ([f.txn a], some (.busError e))
    | .ok =>
      let r := runFrames p a fs rx ds
      (f.txn a :: r.1, r.2)
    | .okBytes bs =>
      let r := runFrames p a fs bs ds
      (f.txn a :: r.1, r.2)

/-- `run(S, cw, answers)` (R132): the transactions an operation issues and its response. -/
def runOp (q : Seq) (cw : CmdWord) (answers : List Draw) : List Txn × Option Response :=
  match decode cw with
  | .error _ => ([], some (.refused .illegalOp))
  | .ok i =>
    match planOf i with
    | none => ([], immediateResponse i q.owned)
    | some p =>
      if q.owned then
        if p.inRange then
          match q.devAddr with
          | none => ([], none)
          | some a => runFrames p a p.frames [] answers
        else ([], some (.refused .operandRange))
      else ([], some (.refused .notOwned))

end Sys2Proof.Machine
end

