-- ==== Sys2Proof/Safety.lean ====
section
/-!
DEFINITION. What counts as a safe state and a safe run: the invariants of 10_state.md R27 and R21, the
accesses 20_memory.md R38 allows, and the runs without a cancellation of 45_execution_model.md R127.
-/

namespace Sys2Proof.Machine

/-- The invariants of R27, (a) to (e), clause for clause. -/
structure Seq.R27 (q : Seq) : Prop where
  /-- (a) `S.busy = 1` implies `S.owned = 1`. -/
  busy_owned : q.busy = true → q.owned = true
  /-- (b) `S.inflight` is not `none` implies `S.busy = 1`. -/
  inflight_busy : q.inflight ≠ none → q.busy = true
  /-- (c) `S.busy = 1` implies `S.step` is less than the number of transactions of `S.cur_op`. -/
  step_lt : q.busy = true → ∃ i, decode q.latched = .ok i ∧ q.stepIdx.toNat < nsteps i
  /-- (d) `len(S.rx) <= 4`. -/
  rx_len : q.rx.length ≤ 4
  /-- (e) `S.dev_addr` has a value whenever `S.owned = 1`. -/
  owned_addr : q.owned = true → ∃ a, q.devAddr = some a

/-- R27, and what a step needs beside it: the outstanding transaction is the one the plan of the latched
word names (R122, R125). -/
structure Seq.Inv (q : Seq) : Prop extends Seq.R27 q where
  /-- `S.inflight` is `txn(S.cur_op, S.cur_arg, S.step)`. -/
  inflight_planned : ∀ t, q.inflight = some t →
    ∃ i a, decode q.latched = .ok i ∧ q.devAddr = some a ∧ txnAt i a q.stepIdx.toNat = some t

/-- An event that may close the transaction `t` (R21, R29, R30): `Done(ok)` closes a write, `Done(ok, bytes)`
with exactly `n` bytes a read of `n` bytes, `Done(err, e)` and `Abandoned` either. -/
def Event.closes (t : Txn) : Event → Bool
  | .issue _ => false
  | .doneOk =>
    match t with
    | .w _ _ => true
    | .wr _ _ _ => false
  | .doneBytes bs =>
    match t with
    | .w _ _ => false
    | .wr _ _ n => bs.length == n
  | .doneErr _ => true
  | .abandoned => true

/-- Reads a trace from the transaction open before it: what is open after it, or `none` when some `Issue` is
not followed, before the next one, by exactly one closing event (R21). -/
def scanTrace : Option Txn → List Event → Option (Option Txn)
  | open?, [] => some open?
  | none, .issue t :: es => scanTrace (some t) es
  | none, .doneOk :: _ => none
  | none, .doneBytes _ :: _ => none
  | none, .doneErr _ :: _ => none
  | none, .abandoned :: _ => none
  | some t, e :: es => if e.closes t then scanTrace none es else none

/-- The trace is well formed, and its last `Issue` is open exactly when a transaction is outstanding (R21). -/
def Seq.TraceOk (q : Seq) : Prop := scanTrace none q.trace = some q.inflight

/-- The accesses the operations make, "and no others" (R38), with the bytes a mode or command write may
carry (R63, R64) and the bits 7, 4 and 2 of the configuration byte 0 (R67, R72). -/
def Txn.Allowed : Txn → Prop
  | .w _ [reg, b] =>
    (reg = 0x10 ∧ (b = 0x00 ∨ b = 0x01 ∨ b = 0x02 ∨ b = 0xF0)) ∨
    (reg = 0x11 ∧ b &&& 0x94 = 0) ∨
    (reg = 0x12 ∧ (b = Config.cmdNop ∨ b = Config.cmdGetFw ∨ b = Config.cmdClear))
  | .w _ [reg, _, _] => reg = 0x13 ∨ reg = 0x15
  | .w _ _ => False
  | .wr _ [reg] n =>
    (reg = 0x20 ∧ n = 1) ∨ (reg = 0x21 ∧ n = 1) ∨ (reg = 0x22 ∧ n = 2) ∨ (reg = 0x24 ∧ n = 2) ∨
    (reg = 0x30 ∧ n = 4) ∨ (reg = 0x48 ∧ n = 3)
  | .wr _ _ _ => False

/-- The device address a transaction is handed to the transport with (R29, R30). -/
def Txn.addr : Txn → DevAddr
  | .w a _ => a
  | .wr a _ _ => a

/-- The transactions a trace shows as issued, in order (R21). -/
def issued : List Event → List Txn
  | [] => []
  | .issue t :: es => t :: issued es
  | .doneOk :: es => issued es
  | .doneBytes _ :: es => issued es
  | .doneErr _ :: es => issued es
  | .abandoned :: es => issued es

/-- The command words among the host's moves, in order. -/
def wordsOf : List HostMove → List CmdWord
  | [] => []
  | .present cw :: ms => cw :: wordsOf ms
  | .cancel :: ms => wordsOf ms
  | .pass :: ms => wordsOf ms

/-- No cancellation is among the host's moves (R127's "a run without `CANCEL`"). -/
def NoCancel (ms : List HostMove) : Prop := HostMove.cancel ∉ ms

/-- Two states of the block that differ at most in what R17 and R20 call meaningless while it is `IDLE`:
`cur_op`, `cur_arg`, `step` and `rx`. -/
structure Seq.SameLive (p q : Seq) : Prop where
  /-- `S.owned`. -/
  owned : p.owned = q.owned
  /-- `S.dev_addr`. -/
  devAddr : p.devAddr = q.devAddr
  /-- `S.busy`. -/
  busy : p.busy = q.busy
  /-- `S.inflight`. -/
  inflight : p.inflight = q.inflight
  /-- `S.trace`. -/
  trace : p.trace = q.trace
  /-- While an operation is in progress the whole of `S` agrees. -/
  live : p.busy = true → p = q

/-- Two machine states that no host and no transport can tell apart now: the same outside the block, and
the same block but for its dead fields. -/
structure State.Alike (s t : State) : Prop where
  /-- The block. -/
  seq : Seq.SameLive s.seq t.seq
  /-- The host's moves. -/
  host : s.host = t.host
  /-- The transport's moves. -/
  transport : s.transport = t.transport
  /-- The responses. -/
  responses : s.responses = t.responses

/-- The operations that need a handle: all but `INIT` and `ECO2_TO_AQI` (R14, R76). -/
def needsHandle : Instr → Bool
  | .init _ => false
  | .eco2ToAqi _ => false
  | .release => true
  | .reset => true
  | .idle => true
  | .deepSleep => true
  | .operational => true
  | .clearCommand => true
  | .firmwareVersion => true
  | .status => true
  | .airqualityIndex => true
  | .tvoc => true
  | .eco2 => true
  | .tempAndHum => true
  | .setTemp _ => true
  | .setHum _ => true
  | .setIntcfg _ => true

/-- The operations that issue transactions: all but `INIT`, `RELEASE` and `ECO2_TO_AQI` (R38). -/
def usesBus : Instr → Bool
  | .init _ => false
  | .eco2ToAqi _ => false
  | .release => false
  | .reset => true
  | .idle => true
  | .deepSleep => true
  | .operational => true
  | .clearCommand => true
  | .firmwareVersion => true
  | .status => true
  | .airqualityIndex => true
  | .tvoc => true
  | .eco2 => true
  | .tempAndHum => true
  | .setTemp _ => true
  | .setHum _ => true
  | .setIntcfg _ => true

/-- The operand domains of R107; every other operation takes every operand of its sub-format. -/
def inDomain : Instr → Bool
  | .setTemp t => decide (-27316 ≤ t ∧ t ≤ 75084)
  | .setHum u => decide (u ≤ 12799)
  | .init _ => true
  | .eco2ToAqi _ => true
  | .release => true
  | .reset => true
  | .idle => true
  | .deepSleep => true
  | .operational => true
  | .clearCommand => true
  | .firmwareVersion => true
  | .status => true
  | .airqualityIndex => true
  | .tvoc => true
  | .eco2 => true
  | .tempAndHum => true
  | .setIntcfg _ => true

/-- The bits of `arg` that the sub-format of `op` reserves (R55): HA for 0x01, HT for 0x0E, HU for 0x0F and
0x10, HI for 0x11, and H0 for the others. -/
def reservedBits (op : Byte) : BitVec 32 :=
  if op = 0x01 then 0xFFFFFF80
  else if op = 0x0E then 0x00000000
  else if op = 0x0F then 0xFFFF0000
  else if op = 0x10 then 0xFFFF0000
  else if op = 0x11 then 0xFFFFFFE0
  else 0xFFFFFFFF

/-- `READY(k)` of the operation `i` (R120), with the handle on the device `a`. -/
structure State.ReadyFor (s : State) (i : Instr) (k : Nat) (a : DevAddr) : Prop where
  /-- An operation is in progress. -/
  busy : s.seq.busy = true
  /-- Nothing is outstanding. -/
  inflight : s.seq.inflight = none
  /-- The operation in progress is `i`. -/
  latched : s.seq.latched = encode i
  /-- `S.step = k`. -/
  step : s.seq.stepIdx.toNat = k
  /-- The device address. -/
  addr : s.seq.devAddr = some a

/-- `WAIT(k)` of the operation `i` with the transaction `x` outstanding (R120), and the transport about to
answer with the draw `d`, its later moves being `rest`. -/
structure State.Answering (s : State) (i : Instr) (k : Nat) (x : Txn) (d : Draw) (rest : List TransportMove) :
    Prop where
  /-- An operation is in progress. -/
  busy : s.seq.busy = true
  /-- The transaction `x` is outstanding. -/
  inflight : s.seq.inflight = some x
  /-- The operation in progress is `i`. -/
  latched : s.seq.latched = encode i
  /-- `S.step = k`. -/
  step : s.seq.stepIdx.toNat = k
  /-- The transport's next move is its answer. -/
  transport : s.transport = .answer d :: rest

/-- The host encoding of the operation `i`: the word of `op` and `arg` decodes to it (R55, R56), and a word of
`op` with a bit of `reserved` set is answered `REFUSED` with `ILLEGAL_OP` in `IDLE`, with no change to `S`
(R71). -/
def EncodedAs (i : Instr) (op : Byte) (arg reserved : BitVec 32) : Prop :=
  decode (cmdWord op arg) = .ok i ∧
  ∀ (x : BitVec 32) (s : State), x &&& reserved ≠ 0 → s.seq.busy = false →
    acceptWord (cmdWord op x) s = .next { s with responses := s.responses ++ [.refused .illegalOp] }

/-- In `READY(k)` the operation `i` hands the transaction `x a` to the transport and changes nothing else
(R122). -/
def IssuesFrame (i : Instr) (k : Nat) (x : DevAddr → Txn) : Prop :=
  ∀ (s : State) (a : DevAddr), s.ReadyFor i k a →
    exec i s = .next { s with
      seq := { s.seq with inflight := some (x a), trace := s.seq.trace ++ [.issue (x a)] } }

/-- In `WAIT(k)` on a write answered with success, the operation `i` responds `OK` with no result, and
changes nothing but the fields named (R123). -/
def WriteEndsOk (i : Instr) (k : Nat) : Prop :=
  ∀ (s : State) (a : DevAddr) (bytes : List Byte) (b0 b1 b2 b3 : Byte) (rest : List TransportMove),
    s.Answering i k (.w a bytes) (.success b0 b1 b2 b3) rest →
      exec i s = .next { s with
        seq := { s.seq with busy := false, inflight := none, trace := s.seq.trace ++ [.doneOk] }
        transport := rest
        responses := s.responses ++ [.ok .unit] }

/-- In `WAIT(0)` on a write answered with success, the two-transaction operation `i` goes to `READY(1)` and
changes nothing but the fields named (R123). -/
def WriteGoesOn (i : Instr) : Prop :=
  ∀ (s : State) (a : DevAddr) (bytes : List Byte) (b0 b1 b2 b3 : Byte) (rest : List TransportMove),
    s.Answering i 0 (.w a bytes) (.success b0 b1 b2 b3) rest →
      exec i s = .next { s with
        seq := { s.seq with stepIdx := 1, inflight := none, trace := s.seq.trace ++ [.doneOk] }
        transport := rest }

/-- In `WAIT(k)` on a read of `n` bytes answered with success, the operation
`i` responds `OK` with the result `res`, and changes nothing but the fields named (R123). `S.rx` keeps the bytes
in `IDLE`: DEDUCED, log 6. -/
def ReadEndsOk (i : Instr) (k n : Nat) (res : Byte → Byte → Byte → Byte → OpResult) : Prop :=
  ∀ (s : State) (a : DevAddr) (wbytes : List Byte) (b0 b1 b2 b3 : Byte) (rest : List TransportMove),
    s.Answering i k (.wr a wbytes n) (.success b0 b1 b2 b3) rest →
      exec i s = .next { s with
        seq := { s.seq with
          busy := false
          inflight := none
          rx := [b0, b1, b2, b3].take n
          trace := s.seq.trace ++ [.doneBytes ([b0, b1, b2, b3].take n)] }
        transport := rest
        responses := s.responses ++ [.ok (res b0 b1 b2 b3)] }

/-- In `WAIT(k)` on a transaction answered with failure `e`, the operation `i` responds `BUS_ERROR(e)`, is no
longer in progress, and changes nothing but the fields named (R123, R141). -/
def FailureEnds (i : Instr) (k : Nat) : Prop :=
  ∀ (s : State) (x : Txn) (e : TErr) (rest : List TransportMove),
    s.Answering i k x (.failure e) rest →
      exec i s = .next { s with
        seq := { s.seq with busy := false, inflight := none, trace := s.seq.trace ++ [.doneErr e] }
        transport := rest
        responses := s.responses ++ [.busError e] }

/-- In `IDLE` the operation `i` is answered `REFUSED` with the reason `r`: "no field of `S` changes at all"
(R141), and nothing else changes but the list of responses. -/
def RefusedWith (i : Instr) (r : Reason) (s : State) : Prop :=
  exec i s = .next { s with responses := s.responses ++ [.refused r] }

/-- In `IDLE` the operation `i` is accepted: its word is latched, the block is `READY(0)`, and nothing but
the fields named changes (R121). -/
def AcceptedIn (i : Instr) (s : State) : Prop :=
  exec i s = .next { s with
    seq := { s.seq with
      busy := true
      curOp := i.opcode
      curArg := i.operand
      stepIdx := 0
      rx := []
      inflight := none } }

/-- The accept step of an operation that issues transactions, its operand in its domain: refused `NOT_OWNED`
without a handle, accepted with one (R76, R121). -/
def NeedsHandle (i : Instr) : Prop :=
  ∀ s : State, s.seq.busy = false →
    (s.seq.owned = false → RefusedWith i .notOwned s) ∧ (s.seq.owned = true → AcceptedIn i s)

/-- An operation without operand, of code `op`, that needs a handle: sub-format H0 and the common checks
(R55, R76). -/
def H0WithHandle (i : Instr) (op : Byte) : Prop := EncodedAs i op 0 0xFFFFFFFF ∧ NeedsHandle i

end Sys2Proof.Machine
end

