-- ==== Sys2Proof/Certificates/Slice0/Obligations.lean ====
section
/-!
DEFINITION. The statements for the provers. Each docstring names the rules of spec/ it formalises, and says
where a clause rests on a choice of the model. The docstrings of Safety.lean explain the predicates used.
-/

open Sys2Proof Sys2Proof.Machine

/-! ## Encoding -/

/-- R54 to R56, R60: the encoder and the decoder are inverse to one another on every operation with every
operand, and on every legal word. -/
def Obligations.DecodeEncodeRoundTrip : Prop :=
  (∀ i : Instr, i.wf = true → decode (encode i) = .ok i) ∧
  (∀ (cw : CmdWord) (i : Instr), decode cw = .ok i → i.wf = true ∧ encode i = cw)

/-- R60: decoding is total; the words with an `op` outside 0x01 to 0x11 and those with a reserved operand bit
are `Illegal`, each by its own name; every other word gives the operation of its `op` with the operand fields
of its `arg`; and every operation with every operand value has exactly one word. -/
def Obligations.DecodeIsTotalAndUnambiguous : Prop :=
  (∀ cw : CmdWord, (CmdWord.op cw).toNat < 0x01 ∨ 0x11 < (CmdWord.op cw).toNat →
    decode cw = .error .illegalOp) ∧
  (∀ cw : CmdWord, 0x01 ≤ (CmdWord.op cw).toNat → (CmdWord.op cw).toNat ≤ 0x11 →
    CmdWord.arg cw &&& reservedBits (CmdWord.op cw) ≠ 0 → decode cw = .error .reservedBit) ∧
  (∀ cw : CmdWord, 0x01 ≤ (CmdWord.op cw).toNat → (CmdWord.op cw).toNat ≤ 0x11 →
    CmdWord.arg cw &&& reservedBits (CmdWord.op cw) = 0 →
    ∃ i, decode cw = .ok i ∧ i.wf = true ∧ i.opcode = CmdWord.op cw ∧ i.operand = CmdWord.arg cw) ∧
  (∀ i : Instr, i.wf = true → ∃! cw : CmdWord, decode cw = .ok i)

/-- Words of 95_test_vectors.md and spec/opcode_table.json, one for each sub-format and more, decode to the
operation they stand for. -/
def Obligations.SpecWordsDecode : Prop :=
  decode 0x0100000053 = .ok (.init 0x53) ∧
  decode 0x0200000000 = .ok .release ∧
  decode 0x0700000000 = .ok .clearCommand ∧
  decode 0x0D00000000 = .ok .tempAndHum ∧
  decode 0x0E000009F6 = .ok (.setTemp 2550) ∧
  decode 0x0EFFFFFE0C = .ok (.setTemp (-500)) ∧
  decode 0x0F000013A1 = .ok (.setHum 5025) ∧
  decode 0x10000005DB = .ok (.eco2ToAqi 1499) ∧
  decode 0x110000000D = .ok (.setIntcfg ⟨true, false, true, .activeHigh, .openDrain⟩) ∧
  decode 0x0900000001 = .error .reservedBit ∧
  decode 0x1200000000 = .error .illegalOp

/-! ## The step -/

/-- R120, R121: in `IDLE` with a word presented, a step is `exec` of the operation the word decodes to; in
`READY` and `WAIT`, when the host makes no CANCEL, a step is `exec` of the operation whose word is latched.
`pass` is the model's entry for a step in which the host makes no move (log 2). -/
def Obligations.StepRunsDecodedWord : Prop :=
  (∀ (s : State) (cw : CmdWord) (rest : List HostMove) (i : Instr),
    s.seq.busy = false → s.host = .present cw :: rest → decode cw = .ok i →
      step s = exec i { s with host := rest }) ∧
  (∀ (s : State) (i : Instr),
    s.seq.busy = true → decode s.seq.latched = .ok i → s.host = [] → step s = exec i s) ∧
  (∀ (s : State) (cw : CmdWord) (rest : List HostMove) (i : Instr),
    s.seq.busy = true → decode s.seq.latched = .ok i → s.host = .present cw :: rest →
      step s = exec i s) ∧
  (∀ (s : State) (rest : List HostMove) (i : Instr),
    s.seq.busy = true → decode s.seq.latched = .ok i → s.host = .pass :: rest →
      step s = exec i { s with host := rest })

/-- A word placed with `withFetchWord` is what the next step runs, on a block that is `IDLE` (log 5). -/
def Obligations.PresentedWordRunsNext : Prop :=
  ∀ (s : State) (w : Nat) (i : Instr), w < 2 ^ 40 → decode (BitVec.ofNat 40 w) = .ok i →
    step (s.withFetchWord 40 w) =
      exec i { s with seq := { s.seq with busy := false, inflight := none } }

/-- R70, R71: a word with an `op` of 0x00 or 0x12 to 0xFF, or with a reserved operand bit set, is answered
`REFUSED` with `ILLEGAL_OP`, issues no transaction and changes no state of the block, whether or not there
is a handle and in both variants. -/
def Obligations.IllegalWordRefused : Prop :=
  ∀ (v : ExecVariant) (s : State) (cw : CmdWord) (rest : List HostMove),
    s.seq.busy = false → s.host = .present cw :: rest →
    ((CmdWord.op cw = 0x00 ∨ 0x12 ≤ (CmdWord.op cw).toNat) ∨
      CmdWord.arg cw &&& reservedBits (CmdWord.op cw) ≠ 0) →
    stepWith v s = .next { s with host := rest, responses := s.responses ++ [.refused .illegalOp] }

/-! ## Reset and lifecycle -/

/-- R26: the fields of `S` the spec gives a reset value, and the state after `INIT a` from there. -/
def Obligations.ResetState : Prop :=
  State.reset.seq.owned = false ∧ State.reset.seq.devAddr = none ∧ State.reset.seq.busy = false ∧
  State.reset.seq.stepIdx = 0 ∧ State.reset.seq.inflight = none ∧ State.reset.seq.rx = [] ∧
  State.reset.seq.trace = [] ∧
  ∀ a : DevAddr, exec (.init a) State.reset = .next { State.reset with
    seq := { State.reset.seq with owned := true, devAddr := some a }
    responses := [.ok .unit] }

/-- R27 and R21 hold at reset. -/
def Obligations.InvariantsHoldAtReset : Prop :=
  State.reset.seq.Inv ∧ State.reset.seq.TraceOk

/-- R153, second part: after reset the block is `IDLE`, has issued nothing, and refuses every operation but
`INIT` and `ECO2_TO_AQI` with `NOT_OWNED`. -/
def Obligations.ResetRefusesAllButInitAndClassify : Prop :=
  State.reset.seq.ctrl = .idle ∧ issued State.reset.seq.trace = [] ∧
  ∀ i : Instr, needsHandle i = true → RefusedWith i .notOwned State.reset

/-- R77: `INIT a` takes the handle and the address `a`, whatever the address, responds `OK` and changes
nothing else; with a handle it is refused `ALREADY_OWNED`; its word is 0x01 with `a` in `arg[6:0]`, and a word
with a bit of `arg[31:7]` set is refused `ILLEGAL_OP`. -/
def Obligations.InitCreatesHandle : Prop :=
  (∀ (a : DevAddr) (s : State), s.seq.busy = false → s.seq.owned = false →
    exec (.init a) s = .next { s with
      seq := { s.seq with owned := true, devAddr := some a }
      responses := s.responses ++ [.ok .unit] }) ∧
  (∀ (a : DevAddr) (s : State), s.seq.busy = false → s.seq.owned = true →
    RefusedWith (.init a) .alreadyOwned s) ∧
  (∀ a : DevAddr, EncodedAs (.init a) 0x01 (a.setWidth 32) 0xFFFFFF80)

/-- R78: `RELEASE` gives the handle back, leaves no address, responds `OK` and changes nothing else; without
a handle it is refused `NOT_OWNED`; after it every operation but `INIT` and `ECO2_TO_AQI` is refused, and
`INIT` takes a handle with any address. -/
def Obligations.ReleaseDropsHandle : Prop :=
  EncodedAs .release 0x02 0 0xFFFFFFFF ∧
  (∀ s : State, s.seq.busy = false → s.seq.owned = true →
    exec .release s = .next { s with
      seq := { s.seq with owned := false, devAddr := none }
      responses := s.responses ++ [.ok .unit] }) ∧
  (∀ s : State, s.seq.busy = false → s.seq.owned = false → RefusedWith .release .notOwned s) ∧
  (∀ s t : State, s.seq.busy = false → s.seq.owned = true → exec .release s = .next t →
    (∀ i : Instr, needsHandle i = true → RefusedWith i .notOwned t) ∧
    (∀ a : DevAddr, ∃ u, exec (.init a) t = .next u ∧ u.seq.owned = true ∧ u.seq.devAddr = some a))

/-! ## The checks of the accept step -/

/-- R14, R76 (2), R137: without a handle every operation but `INIT` and `ECO2_TO_AQI` is refused `NOT_OWNED`
whatever its operand, with no change to `S`. -/
def Obligations.NoHandleRefused : Prop :=
  ∀ (i : Instr) (s : State), needsHandle i = true → s.seq.busy = false → s.seq.owned = false →
    RefusedWith i .notOwned s

/-- R107: with a handle, `SET_TEMP t` is accepted exactly for -27316 <= t <= 75084 and `SET_HUM u` exactly
for 0 <= u <= 12799; any other operand is refused `OPERAND_RANGE` with no transaction and no change to `S`. -/
def Obligations.CompensationOperandDomain : Prop :=
  (∀ (t : Int) (s : State), s.seq.busy = false → s.seq.owned = true →
    (-27316 ≤ t ∧ t ≤ 75084 → AcceptedIn (.setTemp t) s) ∧
    (t < -27316 ∨ 75084 < t → RefusedWith (.setTemp t) .operandRange s)) ∧
  (∀ (u : Nat) (s : State), s.seq.busy = false → s.seq.owned = true →
    (u ≤ 12799 → AcceptedIn (.setHum u) s) ∧
    (12799 < u → RefusedWith (.setHum u) .operandRange s))

/-- R76, R139 (1) to (4): the order of the checks on a word presented in `IDLE`, first match wins. -/
def Obligations.FirstFailingCheckAnswers : Prop :=
  ∀ (cw : CmdWord) (s : State), s.seq.busy = false →
    (∀ e, decode cw = .error e →
      acceptWord cw s = .next { s with responses := s.responses ++ [.refused .illegalOp] }) ∧
    (∀ i, decode cw = .ok i → needsHandle i = true → s.seq.owned = false →
      acceptWord cw s = .next { s with responses := s.responses ++ [.refused .notOwned] }) ∧
    (∀ a, decode cw = .ok (.init a) → s.seq.owned = true →
      acceptWord cw s = .next { s with responses := s.responses ++ [.refused .alreadyOwned] }) ∧
    (∀ i, decode cw = .ok i → needsHandle i = true → s.seq.owned = true → inDomain i = false →
      acceptWord cw s = .next { s with responses := s.responses ++ [.refused .operandRange] }) ∧
    (∀ v, decode cw = .ok (.eco2ToAqi v) → v < 400 →
      acceptWord cw s =
        .next { s with responses := s.responses ++ [.convError (BitVec.ofNat 16 v)] })

/-- R17, R121: an operation with transactions, its operand in its domain, is accepted by an `IDLE` block that
has a handle: its word is latched, the block is `READY(0)`, and nothing else changes. -/
def Obligations.AcceptLatchesWord : Prop :=
  ∀ (i : Instr) (s : State), usesBus i = true → inDomain i = true →
    s.seq.busy = false → s.seq.owned = true → AcceptedIn i s

/-! ## The meaning of each operation -/

/-- R79 to R83: each mode operation needs a handle, issues the one write of its mode code, responds `OK` when
it succeeds and `BUS_ERROR(e)` when it fails, and changes nothing else. Which operation writes which code is
the spec's own inference ("[derived: from the names in §4.2 and §3]", R63; log 12). -/
def Obligations.ModeOperationsWriteTheirCode : Prop :=
  (H0WithHandle .reset 0x03 ∧ H0WithHandle .idle 0x04 ∧ H0WithHandle .deepSleep 0x05 ∧
    H0WithHandle .operational 0x06) ∧
  (IssuesFrame .deepSleep 0 (fun a => .w a [0x10, 0x00]) ∧ WriteEndsOk .deepSleep 0 ∧
    FailureEnds .deepSleep 0) ∧
  (IssuesFrame .idle 0 (fun a => .w a [0x10, 0x01]) ∧ WriteEndsOk .idle 0 ∧ FailureEnds .idle 0) ∧
  (IssuesFrame .operational 0 (fun a => .w a [0x10, 0x02]) ∧ WriteEndsOk .operational 0 ∧
    FailureEnds .operational 0) ∧
  (IssuesFrame .reset 0 (fun a => .w a [0x10, 0xF0]) ∧ WriteEndsOk .reset 0 ∧ FailureEnds .reset 0)

/-- R84: `CLEAR_COMMAND` needs a handle, writes No-op, then, only if that succeeded, Clear; it responds `OK` when both
succeed, and the first failing write's error ends it. -/
def Obligations.ClearCommandIsTwoWrites : Prop :=
  H0WithHandle .clearCommand 0x07 ∧
  IssuesFrame .clearCommand 0 (fun a => .w a [0x12, Config.cmdNop]) ∧
  WriteGoesOn .clearCommand ∧ FailureEnds .clearCommand 0 ∧
  IssuesFrame .clearCommand 1 (fun a => .w a [0x12, Config.cmdClear]) ∧
  WriteEndsOk .clearCommand 1 ∧ FailureEnds .clearCommand 1

/-- R85: `FIRMWARE_VERSION` needs a handle, writes Get-firmware-version, then, only if that succeeded, reads 3 bytes at 0x48
and returns them as (major, minor, patch), whatever they are; the first failing transaction's error ends
it. That `S.rx` keeps the bytes in `IDLE` is the model's reading of R20 against R123 (DEDUCED, log 6). -/
def Obligations.FirmwareVersionWritesThenReads : Prop :=
  H0WithHandle .firmwareVersion 0x08 ∧
  IssuesFrame .firmwareVersion 0 (fun a => .w a [0x12, Config.cmdGetFw]) ∧
  WriteGoesOn .firmwareVersion ∧ FailureEnds .firmwareVersion 0 ∧
  IssuesFrame .firmwareVersion 1 (fun a => .wr a [0x48] 3) ∧
  ReadEndsOk .firmwareVersion 1 3 (fun b0 b1 b2 _ => .firmware b0 b1 b2) ∧
  FailureEnds .firmwareVersion 1

/-- R88, R109, R110: `STATUS` needs a handle, reads one byte at 0x20 and returns its fields, each from its own
bits. That the validity codes 00 and 10 are NormalOperation and InitStartupPhase is the spec's own inference
(R66, R110, D10; DEDUCED, log 12), and that `S.rx` keeps the byte in `IDLE` the model's reading of R20 against
R123 (DEDUCED, log 6). -/
def Obligations.StatusReadsAndDecodes : Prop :=
  H0WithHandle .status 0x09 ∧
  IssuesFrame .status 0 (fun a => .wr a [0x20] 1) ∧
  ReadEndsOk .status 0 1 (fun b0 _ _ _ => .status
    { runningNormally := b0.getLsbD 7
      error := b0.getLsbD 6
      validity :=
        if b0.getLsbD 3 then (if b0.getLsbD 2 then .invalidOutput else .initStartupPhase)
        else (if b0.getLsbD 2 then .warmupPhase else .normalOperation)
      dataReady := b0.getLsbD 1
      newDataInGpr := b0.getLsbD 0 }) ∧
  FailureEnds .status 0

/-- R89, R90: `AIRQUALITY_INDEX` needs a handle, reads one byte at 0x21 and returns the ordinal in its low 3 bits, with the
fallback to Unhealthy for 0, 6 and 7. That `S.rx` keeps the byte in `IDLE` is the model's reading of R20 against
R123 (DEDUCED, log 6). -/
def Obligations.AirqualityIndexReadsAndMasks : Prop :=
  H0WithHandle .airqualityIndex 0x0A ∧
  IssuesFrame .airqualityIndex 0 (fun a => .wr a [0x21] 1) ∧
  ReadEndsOk .airqualityIndex 0 1 (fun b0 _ _ _ => .aqi
    (if b0.toNat % 8 = 1 then .excellent
     else if b0.toNat % 8 = 2 then .good
     else if b0.toNat % 8 = 3 then .moderate
     else if b0.toNat % 8 = 4 then .poor
     else .unhealthy)) ∧
  FailureEnds .airqualityIndex 0

/-- R91: `TVOC` needs a handle, reads two bytes at 0x22 and returns the 16-bit value whose low byte came first,
unchanged and unchecked. That `S.rx` keeps the bytes in `IDLE` is the model's reading of R20 against R123
(DEDUCED, log 6). -/
def Obligations.TvocReadsCount : Prop :=
  H0WithHandle .tvoc 0x0B ∧ IssuesFrame .tvoc 0 (fun a => .wr a [0x22] 2) ∧
  ReadEndsOk .tvoc 0 2 (fun b0 b1 _ _ => .count (BitVec.ofNat 16 (b0.toNat + 256 * b1.toNat))) ∧
  FailureEnds .tvoc 0

/-- R92: `ECO2` needs a handle, reads two bytes at 0x24 and returns the 16-bit value whose low byte came first,
unchanged; that it makes no check is the spec's own inference ("[derived: §4.3 gives `eco2` no check ...]"), and
that `S.rx` keeps the bytes in `IDLE` the model's reading of R20 against R123 (DEDUCED, log 6). -/
def Obligations.Eco2ReadsValue : Prop :=
  H0WithHandle .eco2 0x0C ∧ IssuesFrame .eco2 0 (fun a => .wr a [0x24] 2) ∧
  ReadEndsOk .eco2 0 2 (fun b0 b1 _ _ => .count (BitVec.ofNat 16 (b0.toNat + 256 * b1.toNat))) ∧
  FailureEnds .eco2 0

/-- R93: `TEMP_AND_HUM` needs a handle, reads four bytes at 0x30 in one transaction; the temperature, as a signed 32-bit
value, is raw*100/64 - 27315 of the first two bytes exactly, in -27315 to 75083, and the humidity raw*100/512
of the next two exactly, in 0 to 12799. That `S.rx` keeps the bytes in `IDLE` is the model's reading of R20
against R123 (DEDUCED, log 6). -/
def Obligations.TempAndHumReadsAndConverts : Prop :=
  H0WithHandle .tempAndHum 0x0D ∧
  IssuesFrame .tempAndHum 0 (fun a => .wr a [0x30] 4) ∧
  (∃ (temp : Byte → Byte → BitVec 32) (hum : Byte → Byte → BitVec 16),
    ReadEndsOk .tempAndHum 0 4 (fun b0 b1 b2 b3 => .tempHum (temp b0 b1) (hum b2 b3)) ∧
    (∀ lo hi : Byte,
      (temp lo hi).toInt = ((lo.toNat + 256 * hi.toNat) * 100 / 64 : Nat) - 27315 ∧
      -27315 ≤ (temp lo hi).toInt ∧ (temp lo hi).toInt ≤ 75083) ∧
    (∀ lo hi : Byte,
      (hum lo hi).toNat = (lo.toNat + 256 * hi.toNat) * 100 / 512 ∧ (hum lo hi).toNat ≤ 12799)) ∧
  FailureEnds .tempAndHum 0

/-- R104: `SET_TEMP t` needs a handle; with one it is refused `OPERAND_RANGE` for t < -27316 and t > 75084; for
every other t it is accepted and writes the two bytes, low byte first, of (t + 27315) * 64 / 100, truncated
toward zero. Its word is 0x0E with `t` in two's complement. -/
def Obligations.SetTempWritesRaw : Prop :=
  (∀ x : BitVec 32, decode (cmdWord 0x0E x) = .ok (.setTemp x.toInt)) ∧
  (∀ (t : Int) (s : State), s.seq.busy = false → s.seq.owned = false →
    RefusedWith (.setTemp t) .notOwned s) ∧
  (∀ (t : Int) (s : State), s.seq.busy = false → s.seq.owned = true → t < -27316 ∨ 75084 < t →
    RefusedWith (.setTemp t) .operandRange s) ∧
  (∀ t : Int, -27316 ≤ t → t ≤ 75084 →
    NeedsHandle (.setTemp t) ∧
    (∃ lo hi : Byte, IssuesFrame (.setTemp t) 0 (fun a => .w a [0x13, lo, hi]) ∧
      ((lo.toNat + 256 * hi.toNat : Nat) : Int) = Int.tdiv ((t + 27315) * 64) 100) ∧
    WriteEndsOk (.setTemp t) 0 ∧ FailureEnds (.setTemp t) 0)

/-- R105: `SET_HUM u` needs a handle; with one it is refused `OPERAND_RANGE` for u > 12799; for every other u it
is accepted and writes the two bytes, low byte first, of u * 512 / 100. Its word is 0x0F with `u` in
`arg[15:0]`. -/
def Obligations.SetHumWritesRaw : Prop :=
  (∀ u : Nat, u ≤ 65535 → EncodedAs (.setHum u) 0x0F (BitVec.ofNat 32 u) 0xFFFF0000) ∧
  (∀ (u : Nat) (s : State), s.seq.busy = false → s.seq.owned = false →
    RefusedWith (.setHum u) .notOwned s) ∧
  (∀ (u : Nat) (s : State), s.seq.busy = false → s.seq.owned = true → 12799 < u →
    RefusedWith (.setHum u) .operandRange s) ∧
  (∀ u : Nat, u ≤ 12799 →
    NeedsHandle (.setHum u) ∧
    (∃ lo hi : Byte, IssuesFrame (.setHum u) 0 (fun a => .w a [0x15, lo, hi]) ∧
      lo.toNat + 256 * hi.toNat = u * 512 / 100) ∧
    WriteEndsOk (.setHum u) 0 ∧ FailureEnds (.setHum u) 0)

/-- R67, R115: `SET_INTCFG c` needs a handle and writes one byte to 0x11: each field drives its own bit and no
other, and bits 7, 4 and 2 are 0. Its word is 0x11 with the five fields in `arg[4:0]`. -/
def Obligations.SetIntcfgWritesEncodedByte : Prop :=
  (∀ c : IntCfg, EncodedAs (.setIntcfg c) 0x11
    (BitVec.ofNat 32 (c.en.toNat + 2 * c.onDrdy.toNat + 4 * c.onGpr.toNat +
      8 * (decide (c.polarity = .activeHigh)).toNat + 16 * (decide (c.drive = .pushPull)).toNat))
    0xFFFFFFE0) ∧
  ∀ c : IntCfg,
    NeedsHandle (.setIntcfg c) ∧
    (∃ y : Byte, IssuesFrame (.setIntcfg c) 0 (fun a => .w a [0x11, y]) ∧
      y.getLsbD 0 = c.en ∧ y.getLsbD 1 = c.onDrdy ∧ y.getLsbD 2 = false ∧ y.getLsbD 3 = c.onGpr ∧
      y.getLsbD 4 = false ∧ y.getLsbD 5 = decide (c.drive = .pushPull) ∧
      y.getLsbD 6 = decide (c.polarity = .activeHigh) ∧ y.getLsbD 7 = false) ∧
    WriteEndsOk (.setIntcfg c) 0 ∧ FailureEnds (.setIntcfg c) 0

/-- R99, R106: `ECO2_TO_AQI v` answers in the accept step, with or without a handle: `CONV_ERROR` carrying `v`
below 400, and above it the category of the range `v` is in; it changes nothing but the responses. Its word is
0x10 with `v` in `arg[15:0]`. -/
def Obligations.Eco2ToAqiClassifies : Prop :=
  (∀ v : Nat, v ≤ 65535 → EncodedAs (.eco2ToAqi v) 0x10 (BitVec.ofNat 32 v) 0xFFFF0000) ∧
  ∀ (v : Nat) (s : State), v ≤ 65535 → s.seq.busy = false →
    exec (.eco2ToAqi v) s = .next { s with responses := s.responses ++
      [if v < 400 then .convError (BitVec.ofNat 16 v)
       else if v ≤ 599 then .ok (.aqi .excellent)
       else if v ≤ 799 then .ok (.aqi .good)
       else if v ≤ 999 then .ok (.aqi .moderate)
       else if v ≤ 1499 then .ok (.aqi .poor)
       else .ok (.aqi .unhealthy)] }

/-- R135, R141: a transport failure ends any operation, at either transaction, with `BUS_ERROR` carrying the
transport's value unchanged. -/
def Obligations.BusErrorEndsAnyOperation : Prop :=
  ∀ (i : Instr) (k : Nat), usesBus i = true → k ≤ 1 → FailureEnds i k

/-! ## Cancellation and the two variants -/

/-- R124: under `SUSPENDING` the host may cancel whenever an operation is in progress: an outstanding
transaction is recorded as `Abandoned`, the block is `IDLE`, no response is delivered, and nothing else
changes. -/
def Obligations.CancelAbandonsOperation : Prop :=
  ∀ (s : State) (rest : List HostMove), s.seq.busy = true → s.host = .cancel :: rest →
    stepWith .suspending s = .next { s with
      seq := { s.seq with
        busy := false
        inflight := none
        trace := s.seq.trace ++ (if s.seq.inflight = none then [] else [.abandoned]) }
      host := rest }

/-- R124, R128, R145: under `BLOCKING` there is no CANCEL: no transaction is ever abandoned, and an operation
in progress leaves the block busy or delivers exactly one response. -/
def Obligations.BlockingNeverAbandons : Prop :=
  ∀ s t : State, s.seq.busy = true → stepWith .blocking s = .next t →
    (t.seq.trace = s.seq.trace ∨ ∃ e, e ≠ Event.abandoned ∧ t.seq.trace = s.seq.trace ++ [e]) ∧
    ((t.seq.busy = true ∧ t.responses = s.responses) ∨
      (t.seq.busy = false ∧ ∃ r, t.responses = s.responses ++ [r]))

/-- R127: on a run without CANCEL the two variants are the same machine, step for step. -/
def Obligations.VariantsAgreeWithoutCancel : Prop :=
  ∀ (n : Nat) (s : State), NoCancel s.host →
    runWith .blocking n s = runWith .suspending n s

/-- R131, R163: a transport that never answers leaves the block in `WAIT(k)` for ever, in both variants, when
the host makes no move. -/
def Obligations.SilentTransportHangs : Prop :=
  ∀ (v : ExecVariant) (n : Nat) (i : Instr) (s : State) (x : Txn),
    i.wf = true → usesBus i = true → s.seq.busy = true → s.seq.latched = encode i →
    s.seq.inflight = some x → s.transport = [] → s.host = [] →
      runWith v n s = .next s

/-- R130: while an operation is in progress no word is accepted: the words the host has still to present, and
the latched word, stay as they are. -/
def Obligations.NoWordAcceptedWhileBusy : Prop :=
  ∀ (v : ExecVariant) (s t : State), s.seq.busy = true → stepWith v s = .next t →
    wordsOf t.host = wordsOf s.host ∧ t.seq.curOp = s.seq.curOp ∧ t.seq.curArg = s.seq.curArg

/-! ## Invariants and whole-machine rules -/

/-- R27: from every state with the invariants of R27, and the outstanding transaction the planned one, every
step of either variant answers a next state, and that state has them again. In particular no fault of the
model is reached. -/
def Obligations.StepKeepsInvariant : Prop :=
  ∀ (v : ExecVariant) (s : State), s.seq.Inv → ∃ t, stepWith v s = .next t ∧ t.seq.Inv

/-- R21: every `Issue` of the trace is followed, before the next one, by exactly one `Done` or `Abandoned`
that fits it, and the last may be open exactly while it is outstanding: every step keeps this. -/
def Obligations.TraceStaysBracketed : Prop :=
  ∀ (v : ExecVariant) (s t : State), s.seq.Inv → s.seq.TraceOk → stepWith v s = .next t → t.seq.TraceOk

/-- R34, R38 to R40, R63, R64, R72: from any state, a step issues no transaction or exactly one, which is one of
the listed accesses, the planned one of the operation in progress, and goes to the address the handle holds. -/
def Obligations.OnlyListedAccessesAreIssued : Prop :=
  ∀ (v : ExecVariant) (s t : State), stepWith v s = .next t →
    issued t.seq.trace = issued s.seq.trace ∨
    ∃ x i, issued t.seq.trace = issued s.seq.trace ++ [x] ∧ x.Allowed ∧ s.seq.devAddr = some x.addr ∧
      decode s.seq.latched = .ok i ∧ txnAt i x.addr s.seq.stepIdx.toNat = some x

/-- R21, R48: a step appends at most one event to the trace and never changes an earlier one; an `Issue` is
appended only when nothing is outstanding and leaves its transaction outstanding, and any other event only
when a transaction is outstanding and leaves none. -/
def Obligations.TraceGrowsInOrder : Prop :=
  ∀ (v : ExecVariant) (s t : State), stepWith v s = .next t →
    t.seq.trace = s.seq.trace ∨
    (∃ x, t.seq.trace = s.seq.trace ++ [.issue x] ∧ s.seq.inflight = none ∧ t.seq.inflight = some x) ∨
    (∃ e, (∀ x, e ≠ Event.issue x) ∧ t.seq.trace = s.seq.trace ++ [e] ∧ s.seq.inflight ≠ none ∧
      t.seq.inflight = none)

/-- R14, R15, R154: only `INIT` and `RELEASE` change the handle; and no operation changes the host's list,
delivers more than one response, or takes more than one move of the transport. -/
def Obligations.OnlyInitAndReleaseChangeHandle : Prop :=
  ∀ (i : Instr) (s t : State), exec i s = .next t →
    t.host = s.host ∧
    (usesBus i = true ∨ (∃ v, i = .eco2ToAqi v) →
      t.seq.owned = s.seq.owned ∧ t.seq.devAddr = s.seq.devAddr) ∧
    (t.responses = s.responses ∨ ∃ r, t.responses = s.responses ++ [r]) ∧
    (t.transport = s.transport ∨ ∃ m, s.transport = m :: t.transport)

/-- The frame of the three operations with no transaction (R77, R78, R106): whatever their response, they
leave the trace, the transport, the busy flag and all the bookkeeping of an operation in progress alone. -/
def Obligations.ImmediateOperationsLeaveBus : Prop :=
  ∀ (i : Instr) (s t : State), usesBus i = false → exec i s = .next t →
    t.seq.trace = s.seq.trace ∧ t.transport = s.transport ∧ t.seq.busy = s.seq.busy ∧
    t.seq.inflight = s.seq.inflight ∧ t.seq.stepIdx = s.seq.stepIdx ∧ t.seq.rx = s.seq.rx ∧
    t.seq.curOp = s.seq.curOp ∧ t.seq.curArg = s.seq.curArg

/-- R18: from every state with the invariants of R27, in both variants: the step that accepts an operation sets
`S.step` to 0; the step that closes the outstanding transaction and leaves the operation in progress raises it
by 1, without wrapping; every other step leaves it; and a transaction answered with success, with another one to
follow, is closed by such a step. -/
def Obligations.StepIndexCountsTransactions : Prop :=
  ∀ (v : ExecVariant) (s : State), s.seq.Inv →
    (∀ t : State, stepWith v s = .next t →
      (s.seq.busy = false → t.seq.busy = true → t.seq.stepIdx = 0) ∧
      (s.seq.busy = true → t.seq.busy = true → s.seq.inflight ≠ none → t.seq.inflight = none →
        t.seq.stepIdx.toNat = s.seq.stepIdx.toNat + 1) ∧
      (t.seq.busy = false ∨ (s.seq.busy = true ∧ (s.seq.inflight = none ∨ t.seq.inflight ≠ none)) →
        t.seq.stepIdx = s.seq.stepIdx)) ∧
    (∀ (i : Instr) (b0 b1 b2 b3 : Byte) (rest : List TransportMove),
      s.seq.busy = true → s.seq.inflight ≠ none → decode s.seq.latched = .ok i →
      s.seq.stepIdx.toNat + 1 < nsteps i → NoCancel s.host →
      s.transport = .answer (.success b0 b1 b2 b3) :: rest →
      ∃ t, stepWith v s = .next t ∧ t.seq.busy = true ∧ t.seq.inflight = none ∧
        t.seq.stepIdx.toNat = s.seq.stepIdx.toNat + 1)

/-- R24, R36, R144, C4: what an operation leaves in `cur_op`, `cur_arg`, `step` and `rx` has no influence on
what follows: two states that differ in nothing else run alike, in both variants, for ever. -/
def Obligations.NothingSurvivesAnOperation : Prop :=
  ∀ (v : ExecVariant) (n : Nat) (s t : State), s.Alike t →
    (∃ s' t', runWith v n s = .next s' ∧ runWith v n t = .next t' ∧ s'.Alike t') ∨
    (∃ r, runWith v n s = .fault r ∧ runWith v n t = .fault r)

/-- R132: without CANCEL, the steps of an operation compose into the function `run`: from an `IDLE` state in
which the host presents `cw` and the transport answers with the draws `ds`, when `run` gives the transactions
`xs` and the response `r`, the block is `IDLE` again after one ACCEPT and an ISSUE and a COMPLETE for each
transaction, and has issued exactly `xs` and responded exactly `r`. -/
def Obligations.StepsComposeIntoRun : Prop :=
  ∀ (v : ExecVariant) (s : State) (cw : CmdWord) (ms : List HostMove) (ds : List Draw)
    (rest : List TransportMove) (xs : List Txn) (r : Response),
    s.seq.Inv → s.seq.busy = false → s.host = .present cw :: ms → NoCancel ms →
    s.transport = ds.map .answer ++ rest → runOp s.seq cw ds = (xs, some r) →
    ∃ t, runWith v (1 + 2 * xs.length) s = .next t ∧ t.seq.busy = false ∧
      issued t.seq.trace = issued s.seq.trace ++ xs ∧ t.responses = s.responses ++ [r]

/-- R132, last paragraph: an accepted operation issues `nsteps` transactions and responds `OK` when all its
transactions succeed; otherwise it issues up to and including the first failing one and responds with its
error. -/
def Obligations.RunStopsAtFirstFailure : Prop :=
  ∀ (q : Seq) (cw : CmdWord) (i : Instr) (a : DevAddr) (ds : List Draw),
    decode cw = .ok i → usesBus i = true → inDomain i = true → q.owned = true → q.devAddr = some a →
    ds.length = nsteps i →
    ((∀ d ∈ ds, ∀ e, d ≠ Draw.failure e) →
      (runOp q cw ds).1.length = nsteps i ∧ ∃ r, (runOp q cw ds).2 = some (.ok r)) ∧
    (∀ (before after : List Draw) (e : TErr), ds = before ++ .failure e :: after →
      (∀ d ∈ before, ∀ e', d ≠ Draw.failure e') →
      (runOp q cw ds).1.length = before.length + 1 ∧ (runOp q cw ds).2 = some (.busError e))

/-- R125, R126 with R62: the number of transactions of each operation, and that `txn(op, arg, k)` is defined
exactly for the k below it. -/
def Obligations.PlanHasItsTransactions : Prop :=
  (∀ i : Instr, nsteps i =
    if usesBus i then (if i = .clearCommand ∨ i = .firmwareVersion then 2 else 1) else 0) ∧
  (∀ (i : Instr) (a : DevAddr) (k : Nat), (∃ x, txnAt i a k = some x) ↔ k < nsteps i)

/-- R131: with a transport that answers, and no CANCEL, an operation in progress ends within four steps with
exactly one response. -/
def Obligations.AnsweredOperationEnds : Prop :=
  ∀ (v : ExecVariant) (s : State) (d0 d1 : Draw) (rest : List TransportMove),
    s.seq.Inv → s.seq.busy = true → NoCancel s.host →
    s.transport = .answer d0 :: .answer d1 :: rest →
    ∃ n t r, n ≤ 4 ∧ runWith v n s = .next t ∧ t.seq.busy = false ∧
      t.responses = s.responses ++ [r]

/-- R85 with the property quoted in R21: `FIRMWARE_VERSION`, accepted and answered, adds to the trace exactly
one write immediately followed by one 3-byte read, in that order, and nothing else. -/
def Obligations.FirmwareVersionTrace : Prop :=
  ∀ (v : ExecVariant) (s : State) (a : DevAddr) (ms : List HostMove) (w0 w1 w2 w3 b0 b1 b2 b3 : Byte)
    (rest : List TransportMove),
    s.seq.busy = false → s.seq.owned = true → s.seq.devAddr = some a →
    s.host = .present 0x0800000000 :: ms → NoCancel ms →
    s.transport = .answer (.success w0 w1 w2 w3) :: .answer (.success b0 b1 b2 b3) :: rest →
    ∃ t, runWith v 5 s = .next t ∧ t.seq.busy = false ∧
      t.seq.owned = true ∧ t.seq.devAddr = some a ∧ t.transport = rest ∧
      t.seq.trace = s.seq.trace ++ [.issue (.w a [0x12, Config.cmdGetFw]), .doneOk,
        .issue (.wr a [0x48] 3), .doneBytes [b0, b1, b2]] ∧
      t.responses = s.responses ++ [.ok (.firmware b0 b1 b2)]

/-! ## The converter, the codec, the transport, the register map, the packing -/

/-- R95, R96: the temperature formulas, on mathematical integers with division truncating toward zero, their
ranges and domain, and the rules' worked values. -/
def Obligations.TemperatureFormulas : Prop :=
  (∀ r : Nat, r ≤ 65535 →
    tempRawToScaled r = Int.tdiv (r * 100) 64 - 27315 ∧
    -27315 ≤ tempRawToScaled r ∧ tempRawToScaled r ≤ 75083) ∧
  (∀ t : Int, tempScaledToRaw t = Int.tdiv ((t + 27315) * 64) 100 ∧
    (0 ≤ tempScaledToRaw t ∧ tempScaledToRaw t ≤ 65535 ↔ -27316 ≤ t ∧ t ≤ 75084)) ∧
  ([0, 1, 16, 17481, 17482, 19081, 19082, 65535].map tempRawToScaled =
    [-27315, -27314, -27290, -1, 0, 2499, 2500, 75083]) ∧
  ([-27317, -27316, -27315, -27314, -27313, 75084, 75085, 0, 2500, 2550, -1, 32767].map tempScaledToRaw =
    [-1, 0, 0, 0, 1, 65535, 65536, 17481, 19081, 19113, 17480, 38452])

/-- R97, R98: the humidity formulas, their range and domain, and the rules' worked values. -/
def Obligations.HumidityFormulas : Prop :=
  (∀ r : Nat, r ≤ 65535 →
    humRawToScaled r = Int.tdiv (r * 100) 512 ∧ 0 ≤ humRawToScaled r ∧ humRawToScaled r ≤ 12799) ∧
  (∀ u : Nat, humScaledToRaw u = Int.tdiv (u * 512) 100 ∧
    (0 ≤ humScaledToRaw u ∧ humScaledToRaw u ≤ 65535 ↔ u ≤ 12799)) ∧
  ([5, 6, 511, 512, 25600, 25728, 51200, 65535].map humRawToScaled =
    [0, 1, 99, 100, 5000, 5025, 10000, 12799]) ∧
  ([12799, 12800, 0, 1, 2, 5000, 5025, 9999, 10000].map humScaledToRaw =
    [65530, 65536, 0, 5, 10, 25600, 25728, 51194, 51200])

/-- R101: the round trip of a raw temperature is exact when 16 divides it and one less otherwise, and that of
a scaled temperature loses at most 2. -/
def Obligations.TemperatureRoundTrip : Prop :=
  (∀ r : Nat, r ≤ 65535 →
    tempScaledToRaw (tempRawToScaled r) = if r % 16 = 0 then (r : Int) else r - 1) ∧
  (∀ t : Int, -27315 ≤ t → t ≤ 75084 →
    0 ≤ t - tempRawToScaled (tempScaledToRaw t) ∧ t - tempRawToScaled (tempScaledToRaw t) ≤ 2)

/-- R102: the round trip of a raw humidity loses at most 6 and is exact exactly when 128 divides it, and that
of a scaled humidity loses at most 1. -/
def Obligations.HumidityRoundTrip : Prop :=
  (∀ r : Nat, r ≤ 65535 →
    0 ≤ (r : Int) - humScaledToRaw (humRawToScaled r) ∧
    (r : Int) - humScaledToRaw (humRawToScaled r) ≤ 6 ∧
    (humScaledToRaw (humRawToScaled r) = r ↔ r % 128 = 0)) ∧
  (∀ u : Nat, u ≤ 12799 →
    0 ≤ (u : Int) - humRawToScaled (humScaledToRaw u) ∧
    (u : Int) - humRawToScaled (humScaledToRaw u) ≤ 1)

/-- R103: the equivalent forms a hardware implementation may use are exact. -/
def Obligations.EquivalentHardwareForms : Prop :=
  (∀ r : Nat, tdiv (r * 100) 64 = ((r * 25) >>> 4 : Nat)) ∧
  (∀ r : Nat, tdiv (r * 100) 512 = ((r * 25) >>> 7 : Nat)) ∧
  (∀ t : Int, tdiv ((t + 27315) * 64) 100 = tdiv ((t + 27315) * 16) 25) ∧
  (∀ u : Int, tdiv (u * 512) 100 = tdiv (u * 128) 25)

/-- R111 (a), (c): status bits 5 and 4 are ignored, and the three bytes the rule works out decode as it
says. The validity NormalOperation of the first byte is not the document's vector: code 00 is the spec's own
inference (R66, R110, D10; DEDUCED, log 12). -/
def Obligations.StatusDecodeVectors : Prop :=
  (∀ x : Byte, statusDecode x = statusDecode (x &&& 0xCF)) ∧
  statusDecode 0b00000001 = ⟨false, false, .normalOperation, false, true⟩ ∧
  statusDecode 0b10000100 = ⟨true, false, .warmupPhase, false, false⟩ ∧
  statusDecode 0b00001110 = ⟨false, false, .invalidOutput, true, false⟩

/-- R113: the encoder puts each field in its own bit and 0 in bits 7, 4 and 2; it is injective, its range is the
32 bytes with bits 7, 4 and 2 zero, the largest 0x6B, and the rule's worked bytes come out. -/
def Obligations.IntcfgEncodeInjective : Prop :=
  (∀ c : IntCfg, (intcfgEncode c).toNat = c.en.toNat + 2 * c.onDrdy.toNat + 8 * c.onGpr.toNat +
    32 * (decide (c.drive = .pushPull)).toNat + 64 * (decide (c.polarity = .activeHigh)).toNat) ∧
  (∀ c c' : IntCfg, intcfgEncode c = intcfgEncode c' → c = c') ∧
  (∀ y : Byte, (∃ c, intcfgEncode c = y) ↔ y &&& 0x94 = 0) ∧
  (∀ c : IntCfg, (intcfgEncode c).toNat ≤ 0x6B) ∧
  intcfgEncode ⟨false, false, false, .activeLow, .openDrain⟩ = 0x00 ∧
  intcfgEncode ⟨true, false, false, .activeLow, .openDrain⟩ = 0x01 ∧
  intcfgEncode ⟨false, true, false, .activeLow, .pushPull⟩ = 0x22 ∧
  intcfgEncode ⟨true, true, false, .activeLow, .pushPull⟩ = 0x23 ∧
  intcfgEncode ⟨true, false, true, .activeHigh, .openDrain⟩ = 0x49 ∧
  intcfgEncode ⟨true, true, true, .activeHigh, .pushPull⟩ = 0x6B

/-- R29 to R31: the answers the model's draws give a request are exactly the ones the oracle may choose: `ok`
or any `err(e)` to a write; any list of exactly n bytes, or any `err(e)`, to a read of n bytes, for the n the
block uses. That a draw carries four bytes is the model's form (log 4). -/
def Obligations.DrawsGiveExactlyTheLegalAnswers : Prop :=
  (∀ (a : DevAddr) (bytes : List Byte) (ans : Answer),
    (∃ d, (Txn.w a bytes).answer d = ans) ↔ ans = .ok ∨ ∃ e, ans = .err e) ∧
  (∀ (a : DevAddr) (wbytes : List Byte) (n : Nat) (ans : Answer), n ≤ 4 →
    ((∃ d, (Txn.wr a wbytes n).answer d = ans) ↔
      (∃ bs : List Byte, bs.length = n ∧ ans = .okBytes bs) ∨ ∃ e, ans = .err e))

/-- R37: the 15 registers, their addresses and widths, and that no two entries overlap. -/
def Obligations.RegisterMapMatchesTable : Prop :=
  DevReg.all.map (fun r => (r.addr.toNat, r.width)) =
    [(0x00, 2), (0x10, 1), (0x11, 1), (0x12, 1), (0x13, 2), (0x15, 2), (0x20, 1), (0x21, 1), (0x22, 2),
     (0x24, 2), (0x30, 2), (0x32, 2), (0x38, 1), (0x40, 8), (0x48, 8)] ∧
  (∀ r : DevReg, r ∈ DevReg.all) ∧
  (∀ r r' : DevReg, r ≠ r' →
    r.addr.toNat + r.width ≤ r'.addr.toNat ∨ r'.addr.toNat + r'.width ≤ r.addr.toNat)

/-- R46: the marks of the registers, and every write of every operation goes to a register marked "(write)", and every read to one marked
"(read)" or to 0x48. -/
def Obligations.AccessesRespectMarks : Prop :=
  (∀ r : DevReg, r.access =
    if r.addr ∈ [0x10, 0x11, 0x12, 0x13, 0x15] then .write
    else if r.addr ∈ [0x20, 0x21, 0x22, 0x24, 0x30, 0x32, 0x38] then .read
    else .unmarked) ∧
  ∀ (i : Instr) (a : DevAddr) (k : Nat) (x : Txn), txnAt i a k = some x →
    (∃ (r : DevReg) (payload : List Byte),
      x = .w a (r.addr :: payload) ∧ r.access = .write ∧ payload.length = r.width) ∨
    (∃ (r : DevReg) (n : Nat), x = .wr a [r.addr] n ∧ (r.access = .read ∨ r = .gprRead))

/-- R57 to R59, with the validity codes of R66 and the AQI ordinals of R69: the packed response: the kind codes;
the value in `info`, zero-extended; the result in the named bits of `data`, all other bits 0; and `data` 0 for
every kind but `OK`. How a transport error is packed into its `TERR_W` bits is free (log 3), and the validity
codes 0 and 2 are the spec's own inference (R66, D10; DEDUCED, log 12). -/
def Obligations.ResponsePacking : Prop :=
  (∀ r : OpResult, (Response.ok r).pack.kind = 0 ∧ (Response.ok r).pack.info.toNat = 0) ∧
  (∀ e : TErr, (Response.busError e).pack.kind = 1 ∧
    (Response.busError e).pack.info.toNat = (Config.packTErr e).toNat ∧ (Response.busError e).pack.data = 0) ∧
  (∀ v : BitVec 16, (Response.convError v).pack.kind = 2 ∧
    (Response.convError v).pack.info.toNat = v.toNat ∧ (Response.convError v).pack.data = 0) ∧
  (∀ r : Reason, (Response.refused r).pack.kind = 3 ∧ (Response.refused r).pack.data = 0 ∧
    (Response.refused r).pack.info.toNat =
      match r with
      | .illegalOp => 1
      | .notOwned => 2
      | .alreadyOwned => 3
      | .operandRange => 4) ∧
  (∀ r : StatusRec, (Response.ok (.status r)).pack.data.toNat =
    r.newDataInGpr.toNat + 2 * r.dataReady.toNat +
      4 * (match r.validity with
        | .normalOperation => 0
        | .warmupPhase => 1
        | .initStartupPhase => 2
        | .invalidOutput => 3) +
      16 * r.error.toNat + 32 * r.runningNormally.toNat) ∧
  (∀ a : Aqi, (Response.ok (.aqi a)).pack.data.toNat =
    match a with
    | .excellent => 1
    | .good => 2
    | .moderate => 3
    | .poor => 4
    | .unhealthy => 5) ∧
  (∀ v : BitVec 16, (Response.ok (.count v)).pack.data.toNat = v.toNat) ∧
  (∀ (t : BitVec 32) (h : BitVec 16),
    (Response.ok (.tempHum t h)).pack.data.toNat = t.toNat + 2 ^ 32 * h.toNat) ∧
  (∀ x y z : Byte, (Response.ok (.firmware x y z)).pack.data.toNat =
    x.toNat + 2 ^ 8 * y.toNat + 2 ^ 16 * z.toNat) ∧
  (Response.ok .unit).pack.data = 0
end

