-- ==== Sys2Proof/Laws/Decode.lean ====
section
/-!
SUPPORT. Laws of the command word, the decoder and the encoder.
-/

namespace Sys2Proof

@[simp] theorem op_cmdWord (op : Byte) (arg : BitVec 32) : CmdWord.op (cmdWord op arg) = op :=
  BitVec.extractLsb'_append_eq_left

@[simp] theorem arg_cmdWord (op : Byte) (arg : BitVec 32) : CmdWord.arg (cmdWord op arg) = arg :=
  BitVec.extractLsb'_append_eq_right

/-- A word is its two fields (R54). -/
@[simp] theorem cmdWord_fields (cw : CmdWord) : cmdWord (CmdWord.op cw) (CmdWord.arg cw) = cw := by
  apply BitVec.eq_of_toNat_eq
  simp only [cmdWord, CmdWord.op, CmdWord.arg, BitVec.toNat_append, BitVec.extractLsb'_toNat]
  have h := cw.isLt
  rw [← Nat.shiftLeft_add_eq_or_of_lt (Nat.mod_lt _ (by decide))]
  simp only [Nat.shiftLeft_eq, Nat.shiftRight_eq_div_pow]
  omega

theorem decode_cmdWord (op : Byte) (arg : BitVec 32) : decode (cmdWord op arg) = decodeFields op arg := by
  simp [decode]

/-- Sub-format H0 accepts exactly the zero operand. -/
theorem decodeH0_ok {i j : Instr} {arg : BitVec 32} (h : decodeH0 i arg = .ok j) : j = i ∧ arg = 0 := by
  unfold decodeH0 at h
  split at h
  · exact ⟨by simpa using h.symm, BitVec.eq_of_toNat_eq (by simpa using ‹_›)⟩
  · cases h

/-- Sub-format HA accepts exactly the zero-extended addresses. -/
theorem decodeHA_ok {f : DevAddr → Instr} {j : Instr} {arg : BitVec 32} (h : decodeHA f arg = .ok j) :
    ∃ a : DevAddr, j = f a ∧ arg = a.setWidth 32 := by
  unfold decodeHA at h
  split at h
  · refine ⟨arg.extractLsb' 0 7, by simpa using h.symm, BitVec.eq_of_toNat_eq ?_⟩
    simp
    omega
  · cases h

/-- Sub-format HT accepts every operand, as the i32 it spells. -/
theorem decodeHT_ok {f : Int → Instr} {j : Instr} {arg : BitVec 32} (h : decodeHT f arg = .ok j) :
    j = f arg.toInt := by
  simpa [decodeHT] using h.symm

/-- Sub-format HU accepts exactly the zero-extended u16 values. -/
theorem decodeHU_ok {f : Nat → Instr} {j : Instr} {arg : BitVec 32} (h : decodeHU f arg = .ok j) :
    ∃ u : Nat, j = f u ∧ u ≤ 65535 ∧ arg = BitVec.ofNat 32 u := by
  unfold decodeHU at h
  split at h
  · have hm : arg.toNat % 65536 = arg.toNat := Nat.mod_eq_of_lt ‹_›
    refine ⟨arg.toNat, ?_, by omega, by simp⟩
    simpa [BitVec.extractLsb'_toNat, hm] using h.symm
  · cases h

theorem intCfgOfArg_arg (c : IntCfg) : intCfgOfArg c.arg = c := by
  obtain ⟨en, d, g, p, m⟩ := c
  cases en <;> cases d <;> cases g <;> cases p <;> cases m <;> rfl

theorem intCfg_arg_lt (c : IntCfg) : c.arg.toNat < 32 := by
  obtain ⟨en, d, g, p, m⟩ := c
  cases en <;> cases d <;> cases g <;> cases p <;> cases m <;> decide

theorem arg_intCfgOfArg_fin : ∀ n : Fin 32, (intCfgOfArg (BitVec.ofNat 32 n)).arg = BitVec.ofNat 32 n := by
  decide

theorem arg_intCfgOfArg (arg : BitVec 32) (h : arg.toNat < 32) : (intCfgOfArg arg).arg = arg := by
  have := arg_intCfgOfArg_fin ⟨arg.toNat, h⟩
  simpa using this

/-- Sub-format HI accepts exactly the records. -/
theorem decodeHI_ok {f : IntCfg → Instr} {j : Instr} {arg : BitVec 32} (h : decodeHI f arg = .ok j) :
    ∃ c : IntCfg, j = f c ∧ arg = c.arg := by
  unfold decodeHI at h
  split at h
  · exact ⟨intCfgOfArg arg, by simpa using h.symm, (arg_intCfgOfArg arg ‹_›).symm⟩
  · cases h

theorem decodeHA_addr (f : DevAddr → Instr) (a : DevAddr) :
    decodeHA f (a.setWidth 32) = .ok (f a) := by
  have h : a.toNat % 4294967296 = a.toNat := Nat.mod_eq_of_lt (by have := a.isLt; omega)
  have h' : a.toNat < 128 := a.isLt
  have e : (a.setWidth 32).extractLsb' 0 7 = a := by
    apply BitVec.eq_of_toNat_eq
    simp
    omega
  simp [decodeHA, h, h', e]

theorem decodeHT_ofInt (f : Int → Instr) (t : Int) (h : FitsI32 t) :
    decodeHT f (BitVec.ofInt 32 t) = .ok (f t) := by
  have : (BitVec.ofInt 32 t).toInt = t := by
    rw [BitVec.toInt_ofInt]
    exact Int.bmod_eq_of_le (by omega) (by omega)
  simp [decodeHT, this]

theorem decodeHU_ofNat (f : Nat → Instr) (u : Nat) (h : FitsU16 u) :
    decodeHU f (BitVec.ofNat 32 u) = .ok (f u) := by
  have h1 : u % 4294967296 = u := Nat.mod_eq_of_lt (by omega)
  have h2 : u % 65536 = u := Nat.mod_eq_of_lt (by omega)
  have h3 : u < 65536 := by omega
  simp [decodeHU, BitVec.extractLsb'_toNat, h1, h2, h3]

theorem decodeHI_arg (f : IntCfg → Instr) (c : IntCfg) : decodeHI f c.arg = .ok (f c) := by
  simp [decodeHI, intCfg_arg_lt, intCfgOfArg_arg]

theorem decodeH0_zero (i : Instr) : decodeH0 i 0#32 = .ok i := by
  simp [decodeH0]

end Sys2Proof
end

