-- ==== Sys2Proof/Laws/State.lean ====
section
/-!
SUPPORT. One lemma for each field and each update of the block's state and of the machine's state, true by
rfl, so that no later proof unfolds a record update.
-/

namespace Sys2Proof.Machine

@[simp] theorem Seq.takeHandle_owned (q : Seq) (a : DevAddr) : (q.takeHandle a).owned = true := rfl
@[simp] theorem Seq.takeHandle_devAddr (q : Seq) (a : DevAddr) : (q.takeHandle a).devAddr = some a := rfl
@[simp] theorem Seq.takeHandle_busy (q : Seq) (a : DevAddr) : (q.takeHandle a).busy = q.busy := rfl
@[simp] theorem Seq.takeHandle_curOp (q : Seq) (a : DevAddr) : (q.takeHandle a).curOp = q.curOp := rfl
@[simp] theorem Seq.takeHandle_curArg (q : Seq) (a : DevAddr) : (q.takeHandle a).curArg = q.curArg := rfl
@[simp] theorem Seq.takeHandle_stepIdx (q : Seq) (a : DevAddr) : (q.takeHandle a).stepIdx = q.stepIdx := rfl
@[simp] theorem Seq.takeHandle_inflight (q : Seq) (a : DevAddr) : (q.takeHandle a).inflight = q.inflight := rfl
@[simp] theorem Seq.takeHandle_rx (q : Seq) (a : DevAddr) : (q.takeHandle a).rx = q.rx := rfl
@[simp] theorem Seq.takeHandle_trace (q : Seq) (a : DevAddr) : (q.takeHandle a).trace = q.trace := rfl

@[simp] theorem Seq.dropHandle_owned (q : Seq) : (q.dropHandle).owned = false := rfl
@[simp] theorem Seq.dropHandle_devAddr (q : Seq) : (q.dropHandle).devAddr = none := rfl
@[simp] theorem Seq.dropHandle_busy (q : Seq) : (q.dropHandle).busy = q.busy := rfl
@[simp] theorem Seq.dropHandle_curOp (q : Seq) : (q.dropHandle).curOp = q.curOp := rfl
@[simp] theorem Seq.dropHandle_curArg (q : Seq) : (q.dropHandle).curArg = q.curArg := rfl
@[simp] theorem Seq.dropHandle_stepIdx (q : Seq) : (q.dropHandle).stepIdx = q.stepIdx := rfl
@[simp] theorem Seq.dropHandle_inflight (q : Seq) : (q.dropHandle).inflight = q.inflight := rfl
@[simp] theorem Seq.dropHandle_rx (q : Seq) : (q.dropHandle).rx = q.rx := rfl
@[simp] theorem Seq.dropHandle_trace (q : Seq) : (q.dropHandle).trace = q.trace := rfl

@[simp] theorem Seq.endOp_owned (q : Seq) : (q.endOp).owned = q.owned := rfl
@[simp] theorem Seq.endOp_devAddr (q : Seq) : (q.endOp).devAddr = q.devAddr := rfl
@[simp] theorem Seq.endOp_busy (q : Seq) : (q.endOp).busy = false := rfl
@[simp] theorem Seq.endOp_curOp (q : Seq) : (q.endOp).curOp = q.curOp := rfl
@[simp] theorem Seq.endOp_curArg (q : Seq) : (q.endOp).curArg = q.curArg := rfl
@[simp] theorem Seq.endOp_stepIdx (q : Seq) : (q.endOp).stepIdx = q.stepIdx := rfl
@[simp] theorem Seq.endOp_inflight (q : Seq) : (q.endOp).inflight = q.inflight := rfl
@[simp] theorem Seq.endOp_rx (q : Seq) : (q.endOp).rx = q.rx := rfl
@[simp] theorem Seq.endOp_trace (q : Seq) : (q.endOp).trace = q.trace := rfl

@[simp] theorem Seq.latch_owned (q : Seq) (cw : CmdWord) : (q.latch cw).owned = q.owned := rfl
@[simp] theorem Seq.latch_devAddr (q : Seq) (cw : CmdWord) : (q.latch cw).devAddr = q.devAddr := rfl
@[simp] theorem Seq.latch_busy (q : Seq) (cw : CmdWord) : (q.latch cw).busy = true := rfl
@[simp] theorem Seq.latch_curOp (q : Seq) (cw : CmdWord) : (q.latch cw).curOp = CmdWord.op cw := rfl
@[simp] theorem Seq.latch_curArg (q : Seq) (cw : CmdWord) : (q.latch cw).curArg = CmdWord.arg cw := rfl
@[simp] theorem Seq.latch_stepIdx (q : Seq) (cw : CmdWord) : (q.latch cw).stepIdx = 0 := rfl
@[simp] theorem Seq.latch_inflight (q : Seq) (cw : CmdWord) : (q.latch cw).inflight = none := rfl
@[simp] theorem Seq.latch_rx (q : Seq) (cw : CmdWord) : (q.latch cw).rx = [] := rfl
@[simp] theorem Seq.latch_trace (q : Seq) (cw : CmdWord) : (q.latch cw).trace = q.trace := rfl

@[simp] theorem Seq.issue_owned (q : Seq) (t : Txn) : (q.issue t).owned = q.owned := rfl
@[simp] theorem Seq.issue_devAddr (q : Seq) (t : Txn) : (q.issue t).devAddr = q.devAddr := rfl
@[simp] theorem Seq.issue_busy (q : Seq) (t : Txn) : (q.issue t).busy = q.busy := rfl
@[simp] theorem Seq.issue_curOp (q : Seq) (t : Txn) : (q.issue t).curOp = q.curOp := rfl
@[simp] theorem Seq.issue_curArg (q : Seq) (t : Txn) : (q.issue t).curArg = q.curArg := rfl
@[simp] theorem Seq.issue_stepIdx (q : Seq) (t : Txn) : (q.issue t).stepIdx = q.stepIdx := rfl
@[simp] theorem Seq.issue_inflight (q : Seq) (t : Txn) : (q.issue t).inflight = some t := rfl
@[simp] theorem Seq.issue_rx (q : Seq) (t : Txn) : (q.issue t).rx = q.rx := rfl
@[simp] theorem Seq.issue_trace (q : Seq) (t : Txn) : (q.issue t).trace = q.trace ++ [.issue t] := rfl

@[simp] theorem Seq.close_owned (q : Seq) (e : Event) : (q.close e).owned = q.owned := rfl
@[simp] theorem Seq.close_devAddr (q : Seq) (e : Event) : (q.close e).devAddr = q.devAddr := rfl
@[simp] theorem Seq.close_busy (q : Seq) (e : Event) : (q.close e).busy = q.busy := rfl
@[simp] theorem Seq.close_curOp (q : Seq) (e : Event) : (q.close e).curOp = q.curOp := rfl
@[simp] theorem Seq.close_curArg (q : Seq) (e : Event) : (q.close e).curArg = q.curArg := rfl
@[simp] theorem Seq.close_stepIdx (q : Seq) (e : Event) : (q.close e).stepIdx = q.stepIdx := rfl
@[simp] theorem Seq.close_inflight (q : Seq) (e : Event) : (q.close e).inflight = none := rfl
@[simp] theorem Seq.close_rx (q : Seq) (e : Event) : (q.close e).rx = q.rx := rfl
@[simp] theorem Seq.close_trace (q : Seq) (e : Event) : (q.close e).trace = q.trace ++ [e] := rfl

@[simp] theorem Seq.receive_owned (q : Seq) (bs : List Byte) : (q.receive bs).owned = q.owned := rfl
@[simp] theorem Seq.receive_devAddr (q : Seq) (bs : List Byte) : (q.receive bs).devAddr = q.devAddr := rfl
@[simp] theorem Seq.receive_busy (q : Seq) (bs : List Byte) : (q.receive bs).busy = q.busy := rfl
@[simp] theorem Seq.receive_curOp (q : Seq) (bs : List Byte) : (q.receive bs).curOp = q.curOp := rfl
@[simp] theorem Seq.receive_curArg (q : Seq) (bs : List Byte) : (q.receive bs).curArg = q.curArg := rfl
@[simp] theorem Seq.receive_stepIdx (q : Seq) (bs : List Byte) : (q.receive bs).stepIdx = q.stepIdx := rfl
@[simp] theorem Seq.receive_inflight (q : Seq) (bs : List Byte) : (q.receive bs).inflight = q.inflight := rfl
@[simp] theorem Seq.receive_rx (q : Seq) (bs : List Byte) : (q.receive bs).rx = bs := rfl
@[simp] theorem Seq.receive_trace (q : Seq) (bs : List Byte) : (q.receive bs).trace = q.trace := rfl

@[simp] theorem Seq.nextTxn_owned (q : Seq) : (q.nextTxn).owned = q.owned := rfl
@[simp] theorem Seq.nextTxn_devAddr (q : Seq) : (q.nextTxn).devAddr = q.devAddr := rfl
@[simp] theorem Seq.nextTxn_busy (q : Seq) : (q.nextTxn).busy = q.busy := rfl
@[simp] theorem Seq.nextTxn_curOp (q : Seq) : (q.nextTxn).curOp = q.curOp := rfl
@[simp] theorem Seq.nextTxn_curArg (q : Seq) : (q.nextTxn).curArg = q.curArg := rfl
@[simp] theorem Seq.nextTxn_stepIdx (q : Seq) : (q.nextTxn).stepIdx = q.stepIdx + 1 := rfl
@[simp] theorem Seq.nextTxn_inflight (q : Seq) : (q.nextTxn).inflight = q.inflight := rfl
@[simp] theorem Seq.nextTxn_rx (q : Seq) : (q.nextTxn).rx = q.rx := rfl
@[simp] theorem Seq.nextTxn_trace (q : Seq) : (q.nextTxn).trace = q.trace := rfl

@[simp] theorem State.withSeq_seq (s : State) (q : Seq) : (s.withSeq q).seq = q := rfl
@[simp] theorem State.withSeq_host (s : State) (q : Seq) : (s.withSeq q).host = s.host := rfl
@[simp] theorem State.withSeq_transport (s : State) (q : Seq) : (s.withSeq q).transport = s.transport := rfl
@[simp] theorem State.withSeq_responses (s : State) (q : Seq) : (s.withSeq q).responses = s.responses := rfl

@[simp] theorem State.respond_seq (s : State) (r : Response) : (s.respond r).seq = s.seq := rfl
@[simp] theorem State.respond_host (s : State) (r : Response) : (s.respond r).host = s.host := rfl
@[simp] theorem State.respond_transport (s : State) (r : Response) : (s.respond r).transport = s.transport := rfl
@[simp] theorem State.respond_responses (s : State) (r : Response) : (s.respond r).responses = s.responses ++ [r] := rfl

@[simp] theorem State.abnormalEnd_seq (s : State) (c : Cause) : (s.abnormalEnd c).seq = c.endSeq s.seq := rfl
@[simp] theorem State.abnormalEnd_host (s : State) (c : Cause) : (s.abnormalEnd c).host = s.host := rfl
@[simp] theorem State.abnormalEnd_transport (s : State) (c : Cause) : (s.abnormalEnd c).transport = s.transport := rfl
@[simp] theorem State.abnormalEnd_responses (s : State) (c : Cause) : (s.abnormalEnd c).responses = s.responses ++ [c.response] := rfl

@[simp] theorem Cause.endSeq_bus (e : TErr) (q : Seq) :
    (Cause.bus e).endSeq q = (q.close (.doneErr e)).endOp := rfl
@[simp] theorem Cause.endSeq_conv (v : Half) (q : Seq) : (Cause.conv v).endSeq q = q := rfl
@[simp] theorem Cause.endSeq_refuse (r : Reason) (q : Seq) : (Cause.refuse r).endSeq q = q := rfl
@[simp] theorem Cause.response_bus (e : TErr) : (Cause.bus e).response = .busError e := rfl
@[simp] theorem Cause.response_conv (v : Half) : (Cause.conv v).response = .convError v := rfl
@[simp] theorem Cause.response_refuse (r : Reason) : (Cause.refuse r).response = .refused r := rfl

@[simp] theorem cancelOp_seq (s : State) : (cancelOp s).seq = s.seq.cancel := rfl
@[simp] theorem cancelOp_host (s : State) : (cancelOp s).host = s.host := rfl
@[simp] theorem cancelOp_transport (s : State) : (cancelOp s).transport = s.transport := rfl
@[simp] theorem cancelOp_responses (s : State) : (cancelOp s).responses = s.responses := rfl

@[simp] theorem Seq.latched_endOp (q : Seq) : q.endOp.latched = q.latched := rfl
@[simp] theorem Seq.latched_issue (q : Seq) (t : Txn) : (q.issue t).latched = q.latched := rfl
@[simp] theorem Seq.latched_close (q : Seq) (e : Event) : (q.close e).latched = q.latched := rfl
@[simp] theorem Seq.latched_receive (q : Seq) (bs : List Byte) : (q.receive bs).latched = q.latched := rfl
@[simp] theorem Seq.latched_nextTxn (q : Seq) : q.nextTxn.latched = q.latched := rfl

/-- `IDLE` is `S.busy = 0` (R120). -/
theorem Seq.ctrl_of_not_busy (q : Seq) (h : q.busy = false) : q.ctrl = .idle := by
  simp [Seq.ctrl, h]

/-- `READY(k)` is busy with nothing in flight (R120). -/
theorem Seq.ctrl_of_ready (q : Seq) (h : q.busy = true) (hi : q.inflight = none) :
    q.ctrl = .ready q.stepIdx.toNat := by
  simp [Seq.ctrl, h, hi]

/-- `WAIT(k)` is busy with a transaction in flight (R120). -/
theorem Seq.ctrl_of_wait (q : Seq) (t : Txn) (h : q.busy = true) (hi : q.inflight = some t) :
    q.ctrl = .wait q.stepIdx.toNat t := by
  simp [Seq.ctrl, h, hi]

/-- The three control states, read back to the fields of `S`. -/
theorem Seq.ctrl_cases (q : Seq) :
    (q.ctrl = .idle ∧ q.busy = false) ∨
    (q.ctrl = .ready q.stepIdx.toNat ∧ q.busy = true ∧ q.inflight = none) ∨
    (∃ t, q.ctrl = .wait q.stepIdx.toNat t ∧ q.busy = true ∧ q.inflight = some t) := by
  cases hb : q.busy with
  | false => exact .inl ⟨q.ctrl_of_not_busy hb, rfl⟩
  | true =>
    cases hi : q.inflight with
    | none => exact .inr (.inl ⟨q.ctrl_of_ready hb hi, rfl, rfl⟩)
    | some t => exact .inr (.inr ⟨t, q.ctrl_of_wait t hb hi, rfl, rfl⟩)

end Sys2Proof.Machine
end

