-- ==== Sys2Proof/Laws/Ops.lean ====
section
/-!
SUPPORT. What each shared operation can do, said once: the provers cite these lemmas and do not unfold the
operations.
-/

namespace Sys2Proof.Machine

open Host (Outcome)

theorem ok_inj {α ε : Type} {a b : α} (h : (Except.ok a : Except ε α) = .ok b) : a = b := by
  cases h; rfl

theorem next_inj {a b : State} (h : (Outcome.next a : Outcome State Fault Refusal) = .next b) : a = b := by
  cases h; rfl

@[simp] theorem latched_latch (q : Seq) (cw : CmdWord) : (q.latch cw).latched = cw := by
  simp [Seq.latched]

/-- A legal word is the encoding of what it decodes to, so the two never disagree (R60). -/
theorem encode_of_decode {cw : CmdWord} {i : Instr} (h : decode cw = .ok i) : encode i = cw := by
  rw [← cmdWord_fields cw, decode_cmdWord] at h
  conv_rhs => rw [← cmdWord_fields cw]
  revert h
  generalize CmdWord.op cw = op
  generalize CmdWord.arg cw = arg
  intro h
  have key : ∀ n : Nat, op.toNat = n → op = BitVec.ofNat 8 n := fun n hn => by
    rw [← hn]; simp
  unfold decodeFields at h
  split at h
  case h_1 hn => obtain ⟨a, rfl, rfl⟩ := decodeHA_ok h; rw [key _ hn]; rfl
  case h_14 hn => obtain rfl := decodeHT_ok h; rw [key _ hn]; simp [encode, Instr.opcode, Instr.operand]
  case h_15 hn => obtain ⟨u, rfl, _, rfl⟩ := decodeHU_ok h; rw [key _ hn]; rfl
  case h_16 hn => obtain ⟨u, rfl, _, rfl⟩ := decodeHU_ok h; rw [key _ hn]; rfl
  case h_17 hn => obtain ⟨c, rfl, rfl⟩ := decodeHI_ok h; rw [key _ hn]; rfl
  case h_18 => cases h
  all_goals obtain ⟨rfl, rfl⟩ := decodeH0_ok h; rw [key _ ‹_›]; rfl

/-- The word a plan latches is the word of its operation. -/
theorem word_of_planOf {i : Instr} {p : BusOp} (h : planOf i = some p) : p.word = encode i := by
  cases i <;> simp [planOf] at h <;> subst h <;> rfl

/-- An operation with transactions is run by its plan. -/
theorem exec_of_planOf {i : Instr} {p : BusOp} (h : planOf i = some p) (s : State) :
    exec i s = runBus p s := by
  cases i <;> simp [planOf] at h <;> subst h <;> rfl

/-- ACCEPT of an operation with transactions (R121). -/
theorem acceptBus_cases (p : BusOp) (s : State) :
    (s.seq.owned = false ∧ acceptBus p s = s.abnormalEnd (.refuse .notOwned)) ∨
    (s.seq.owned = true ∧ p.inRange = false ∧ acceptBus p s = s.abnormalEnd (.refuse .operandRange)) ∨
    (s.seq.owned = true ∧ p.inRange = true ∧ acceptBus p s = s.withSeq (s.seq.latch p.word)) := by
  cases ho : s.seq.owned <;> cases hr : p.inRange <;> simp [acceptBus, Ownership.refusal, ho, hr]

/-- What ISSUE does when it answers a next state (R122). -/
theorem issueTxn_next {p : BusOp} {s t : State} (h : issueTxn p s = .next t) :
    ∃ a f, s.seq.devAddr = some a ∧ p.frames[s.seq.stepIdx.toNat]? = some f ∧
      t = s.withSeq (s.seq.issue (f.txn a)) := by
  unfold issueTxn at h
  split at h
  · cases h
  · split at h
    · cases h
    · exact ⟨_, _, ‹_›, ‹_›, (next_inj h).symm⟩

/-- What follows a successful answer (R123). -/
theorem afterSuccess_next {p : BusOp} {s t : State} (h : afterSuccess p s = .next t) :
    (s.seq.stepIdx.toNat + 1 < p.nsteps ∧ t = s.withSeq s.seq.nextTxn) ∨
    (p.nsteps ≤ s.seq.stepIdx.toNat + 1 ∧ ∃ r, p.finish s.seq.rx = some r ∧
      t = (s.withSeq s.seq.endOp).respond (.ok r)) := by
  unfold afterSuccess at h
  split at h
  · exact .inl ⟨‹_›, (next_inj h).symm⟩
  · split at h
    · cases h
    · exact .inr ⟨by omega, _, ‹_›, (next_inj h).symm⟩

/-- What COMPLETE does when it answers a next state (R123). -/
theorem completeTxn_next {p : BusOp} {s t : State} {ans : Answer} (h : completeTxn p s ans = .next t) :
    (∃ e, ans = .err e ∧ t = s.abnormalEnd (.bus e)) ∨
    (ans = .ok ∧ afterSuccess p (s.withSeq (s.seq.close .doneOk)) = .next t) ∨
    (∃ bs, ans = .okBytes bs ∧
      afterSuccess p (s.withSeq ((s.seq.receive bs).close (.doneBytes bs))) = .next t) := by
  cases ans with
  | err e => exact .inl ⟨e, rfl, (next_inj h).symm⟩
  | ok => exact .inr (.inl ⟨rfl, h⟩)
  | okBytes bs => exact .inr (.inr ⟨bs, rfl, h⟩)

/-- What the transport's move does when it answers a next state (R123, R124, R131). -/
theorem awaitAnswer_next {p : BusOp} {x : Txn} {s t : State} (h : awaitAnswer p x s = .next t) :
    (s.transport = [] ∧ t = s) ∨
    (∃ d rest, s.transport = .late d :: rest ∧ t = { s with transport := rest }) ∨
    (∃ d rest, s.transport = .answer d :: rest ∧
      completeTxn p { s with transport := rest } (x.answer d) = .next t) := by
  unfold awaitAnswer at h
  split at h
  · exact .inl ⟨‹_›, (next_inj h).symm⟩
  · exact .inr (.inl ⟨_, _, ‹_›, (next_inj h).symm⟩)
  · exact .inr (.inr ⟨_, _, ‹_›, h⟩)

/-- What the next atomic step of an operation with transactions does when it answers a next state. -/
theorem runBus_next {p : BusOp} {s t : State} (h : runBus p s = .next t) :
    (s.seq.busy = false ∧ t = acceptBus p s) ∨
    (s.seq.busy = true ∧ s.seq.inflight = none ∧ s.seq.latched = p.word ∧ issueTxn p s = .next t) ∨
    (s.seq.busy = true ∧ s.seq.latched = p.word ∧
      ∃ x, s.seq.inflight = some x ∧ awaitAnswer p x s = .next t) := by
  obtain ⟨hc, hb⟩ | ⟨hc, hb, hi⟩ | ⟨x, hc, hb, hi⟩ := s.seq.ctrl_cases
  · simp only [runBus, hc] at h
    exact .inl ⟨hb, (next_inj h).symm⟩
  · simp only [runBus, hc] at h
    split at h
    · exact .inr (.inl ⟨hb, hi, ‹_›, h⟩)
    · cases h
  · simp only [runBus, hc] at h
    split at h
    · exact .inr (.inr ⟨hb, ‹_›, x, hi, h⟩)
    · cases h

/-- What an operation with no transaction does when it answers a next state (R121). -/
theorem runNow_next {o : Ownership} {e : State → State} {s t : State} (h : runNow o e s = .next t) :
    s.seq.busy = false ∧
    ((∃ r, o.refusal s.seq.owned = some r ∧ t = s.abnormalEnd (.refuse r)) ∨
     (o.refusal s.seq.owned = none ∧ t = e s)) := by
  obtain ⟨hc, hb⟩ | ⟨hc, hb, hi⟩ | ⟨x, hc, hb, hi⟩ := s.seq.ctrl_cases
  · simp only [runNow, hc] at h
    refine ⟨hb, ?_⟩
    split at h
    · exact .inl ⟨_, ‹_›, (next_inj h).symm⟩
    · exact .inr ⟨‹_›, (next_inj h).symm⟩
  · simp [runNow, hc] at h
  · simp [runNow, hc] at h

/-- The effect of `ECO2_TO_AQI` is one response, and nothing else (R106). -/
theorem classify_eq (v : Nat) (s : State) : ∃ r, classify v s = s.respond r := by
  unfold classify
  split
  · exact ⟨_, rfl⟩
  · exact ⟨_, rfl⟩

/-- A step of a busy block is a CANCEL, or one step of the operation whose word is latched (R120). -/
theorem stepBusy_cases (v : ExecVariant) (s : State) :
    (∃ rest, v = .suspending ∧ s.host = .cancel :: rest ∧
      stepBusy v s = .next (cancelOp { s with host := rest })) ∨
    (∃ ms, wordsOf ms = wordsOf s.host ∧ ms <:+ s.host ∧ stepBusy v s = advance { s with host := ms }) := by
  unfold stepBusy
  split
  · cases v with
    | suspending => exact .inl ⟨_, rfl, ‹_›, rfl⟩
    | blocking => exact .inr ⟨_, by simp_all [wordsOf], by simp_all, rfl⟩
  · exact .inr ⟨_, by simp_all [wordsOf], by simp_all, rfl⟩
  · exact .inr ⟨s.host, rfl, List.suffix_refl _, rfl⟩
  · exact .inr ⟨s.host, rfl, List.suffix_refl _, rfl⟩

/-- A step of an `IDLE` block is an ACCEPT of the word presented, or changes nothing but the host's list. -/
theorem stepIdle_cases (s : State) :
    (∃ cw rest, s.host = .present cw :: rest ∧ stepIdle s = acceptWord cw { s with host := rest }) ∨
    (∃ ms, ms <:+ s.host ∧ stepIdle s = .next { s with host := ms }) := by
  unfold stepIdle
  split
  · exact .inl ⟨_, _, ‹_›, rfl⟩
  · exact .inr ⟨_, by simp_all, rfl⟩
  · exact .inr ⟨_, by simp_all, rfl⟩
  · exact .inr ⟨s.host, List.suffix_refl _, rfl⟩

/-- The step of a busy block's operation (R122, R123). -/
theorem advance_of_decode {s : State} {i : Instr} (h : decode s.seq.latched = .ok i) :
    advance s = exec i s := by
  simp [advance, h]

/-- ACCEPT of a legal word (R121). -/
theorem acceptWord_of_decode {cw : CmdWord} {i : Instr} (h : decode cw = .ok i) (s : State) :
    acceptWord cw s = exec i s := by
  simp [acceptWord, h]

/-- ACCEPT of an `Illegal` word (R70, R121). -/
theorem acceptWord_of_illegal {cw : CmdWord} {e : Illegal} (h : decode cw = .error e) (s : State) :
    acceptWord cw s = .next (s.abnormalEnd (.refuse .illegalOp)) := by
  simp [acceptWord, h]

/-- The answers of the oracle are the ones R29 and R30 let the transport give, and a read of at most four
bytes is answered with exactly that many. -/
theorem answer_cases (x : Txn) (d : Draw) :
    (∃ e, d = .failure e ∧ x.answer d = .err e) ∨
    (∃ a bs, x = .w a bs ∧ x.answer d = .ok) ∨
    (∃ a wb n bs, x = .wr a wb n ∧ x.answer d = .okBytes bs ∧ bs.length = min n 4) := by
  cases d with
  | failure e => exact .inl ⟨e, rfl, rfl⟩
  | success b0 b1 b2 b3 =>
    cases x with
    | w a bs => exact .inr (.inl ⟨a, bs, rfl, rfl⟩)
    | wr a wb n => exact .inr (.inr ⟨a, wb, n, _, rfl, rfl, by simp⟩)

end Sys2Proof.Machine
end

