-- ==== Sys2Proof/Laws/PerInstr.lean ====
section
/-!
SUPPORT. Facts about every instruction as syntax, one lemma for each constructor of Instr.
-/

/-- The round trip of the encoding: the word of a well-formed instruction decodes to it (R60). -/
def Sys2Proof.Laws.RoundTrip.Statement (i : Sys2Proof.Instr) : Prop :=
  i.wf = true → Sys2Proof.decode (Sys2Proof.encode i) = .ok i

namespace Sys2Proof.Laws.RoundTrip

theorem init (a : DevAddr) : Statement (.init a) := by
  intro _
  rw [encode, decode_cmdWord]
  exact decodeHA_addr _ a

theorem release : Statement .release := fun _ => by rfl
theorem reset : Statement .reset := fun _ => by rfl
theorem idle : Statement .idle := fun _ => by rfl
theorem deepSleep : Statement .deepSleep := fun _ => by rfl
theorem operational : Statement .operational := fun _ => by rfl
theorem clearCommand : Statement .clearCommand := fun _ => by rfl
theorem firmwareVersion : Statement .firmwareVersion := fun _ => by rfl
theorem status : Statement .status := fun _ => by rfl
theorem airqualityIndex : Statement .airqualityIndex := fun _ => by rfl
theorem tvoc : Statement .tvoc := fun _ => by rfl
theorem eco2 : Statement .eco2 := fun _ => by rfl
theorem tempAndHum : Statement .tempAndHum := fun _ => by rfl

theorem setTemp (t : Int) : Statement (.setTemp t) := by
  intro h
  have h : FitsI32 t := by simpa [Instr.wf] using h
  rw [encode, decode_cmdWord]
  exact decodeHT_ofInt _ _ h

theorem setHum (u : Nat) : Statement (.setHum u) := by
  intro h
  have h : FitsU16 u := by simpa [Instr.wf] using h
  rw [encode, decode_cmdWord]
  exact decodeHU_ofNat _ _ h

theorem eco2ToAqi (v : Nat) : Statement (.eco2ToAqi v) := by
  intro h
  have h : FitsU16 v := by simpa [Instr.wf] using h
  rw [encode, decode_cmdWord]
  exact decodeHU_ofNat _ _ h

theorem setIntcfg (c : IntCfg) : Statement (.setIntcfg c) := by
  intro _
  rw [encode, decode_cmdWord]
  exact decodeHI_arg _ c

end Sys2Proof.Laws.RoundTrip
end

