-- ==== Sys2Proof/Laws/Step.lean ====
section
/-!
SUPPORT. What one step can do, said once: `exec_move` for an operation and `step_cases` for the machine.
Invariants, frames and whole-machine rules are derived from these two.
-/

namespace Sys2Proof.Machine

open Host (Outcome)

/-- How a successful answer to the outstanding `x` is recorded: the bytes `bs` left in `S.rx` and the event
`e` (R123). A write leaves `S.rx` as it is. -/
def Received (q : Seq) (x : Txn) (bs : List Byte) (e : Event) : Prop :=
  (∃ a wb, x = .w a wb ∧ bs = q.rx ∧ e = .doneOk) ∨
  (∃ a wb n, x = .wr a wb n ∧ bs.length = min n 4 ∧ e = .doneBytes bs)

/-- What a step of the operation `i` does to `S`, with the responses it delivers: everything it can do, one
constructor for each way. -/
inductive OpMove (i : Instr) : Seq → Seq → List Response → Prop
  /-- The transport has not answered, or delivered a late answer (R124, R131). -/
  | waits (q : Seq) : OpMove i q q []
  /-- A response at once, with no change to `S`: a refusal, or `ECO2_TO_AQI` (R106, R137). -/
  | responds (q : Seq) (r : Response) (hb : q.busy = false) : OpMove i q q [r]
  /-- `INIT` (R77). -/
  | takes (q : Seq) (a : DevAddr) (hi : i = .init a) (hb : q.busy = false) :
      OpMove i q (q.takeHandle a) [.ok .unit]
  /-- `RELEASE` (R78). -/
  | drops (q : Seq) (hi : i = .release) (hb : q.busy = false) : OpMove i q q.dropHandle [.ok .unit]
  /-- ACCEPT of an operation with transactions (R121). -/
  | latches (q : Seq) (p : BusOp) (hp : planOf i = some p) (hb : q.busy = false) (ho : q.owned = true)
      (hr : p.inRange = true) : OpMove i q (q.latch (encode i)) []
  /-- ISSUE (R122). -/
  | issues (q : Seq) (p : BusOp) (a : DevAddr) (f : Frame) (hp : planOf i = some p) (hb : q.busy = true)
      (hn : q.inflight = none) (hl : q.latched = encode i) (ha : q.devAddr = some a)
      (hf : p.frames[q.stepIdx.toNat]? = some f) : OpMove i q (q.issue (f.txn a)) []
  /-- COMPLETE with success, another transaction following (R123). -/
  | goesOn (q : Seq) (p : BusOp) (x : Txn) (bs : List Byte) (e : Event) (hp : planOf i = some p)
      (hb : q.busy = true) (hx : q.inflight = some x) (hl : q.latched = encode i)
      (hr : Received q x bs e) (hk : q.stepIdx.toNat + 1 < p.nsteps) :
      OpMove i q ((q.receive bs).close e).nextTxn []
  /-- COMPLETE with success of the last transaction (R123). -/
  | ends (q : Seq) (p : BusOp) (x : Txn) (bs : List Byte) (e : Event) (r : OpResult)
      (hp : planOf i = some p) (hb : q.busy = true) (hx : q.inflight = some x) (hl : q.latched = encode i)
      (hr : Received q x bs e) (hk : p.nsteps ≤ q.stepIdx.toNat + 1) (hf : p.finish bs = some r) :
      OpMove i q ((q.receive bs).close e).endOp [.ok r]
  /-- COMPLETE with failure (R123, R141). -/
  | fails (q : Seq) (p : BusOp) (x : Txn) (e : TErr) (hp : planOf i = some p) (hb : q.busy = true)
      (hx : q.inflight = some x) (hl : q.latched = encode i) :
      OpMove i q (q.close (.doneErr e)).endOp [.busError e]

/-- The answer of the transport is recorded as `Received` says, or is a failure. -/
theorem completeTxn_move {i : Instr} {p : BusOp} {s t : State} {x : Txn} {d : Draw}
    (hp : planOf i = some p) (hb : s.seq.busy = true) (hx : s.seq.inflight = some x)
    (hl : s.seq.latched = encode i) (h : completeTxn p s (x.answer d) = .next t) :
    ∃ rs, OpMove i s.seq t.seq rs ∧ t.responses = s.responses ++ rs ∧ t.transport = s.transport ∧
      t.host = s.host := by
  obtain ⟨e, _, ha⟩ | ⟨a, wb, rfl, ha⟩ | ⟨a, wb, n, bs, rfl, ha, hlen⟩ := answer_cases x d
  · rw [ha] at h
    obtain rfl := next_inj h
    exact ⟨_, .fails _ p x e hp hb hx hl, rfl, rfl, rfl⟩
  · rw [ha] at h
    have hr : Received s.seq (.w a wb) s.seq.rx .doneOk := .inl ⟨a, wb, rfl, rfl, rfl⟩
    obtain ⟨hk, rfl⟩ | ⟨hk, r, hf, rfl⟩ := afterSuccess_next h
    · exact ⟨[], .goesOn _ p _ _ _ hp hb hx hl hr hk, by simp, rfl, rfl⟩
    · exact ⟨[.ok r], .ends _ p _ _ _ r hp hb hx hl hr hk hf, rfl, rfl, rfl⟩
  · rw [ha] at h
    have hr : Received s.seq (.wr a wb n) bs (.doneBytes bs) := .inr ⟨a, wb, n, rfl, hlen, rfl⟩
    obtain ⟨hk, rfl⟩ | ⟨hk, r, hf, rfl⟩ := afterSuccess_next h
    · exact ⟨[], .goesOn _ p _ _ _ hp hb hx hl hr hk, by simp, rfl, rfl⟩
    · exact ⟨[.ok r], .ends _ p _ _ _ r hp hb hx hl hr hk hf, rfl, rfl, rfl⟩

/-- Everything a step of an operation with transactions can do. -/
theorem runBus_move {i : Instr} {p : BusOp} {s t : State} (hp : planOf i = some p)
    (h : runBus p s = .next t) :
    ∃ rs, OpMove i s.seq t.seq rs ∧ t.responses = s.responses ++ rs ∧
      (t.transport = s.transport ∨ ∃ m, s.transport = m :: t.transport) ∧ t.host = s.host := by
  have hw := word_of_planOf hp
  obtain ⟨hb, rfl⟩ | ⟨hb, hn, hl, h⟩ | ⟨hb, hl, x, hx, h⟩ := runBus_next h
  · obtain ⟨_, h⟩ | ⟨_, _, h⟩ | ⟨ho, hr, h⟩ := acceptBus_cases p s
    · rw [h]
      exact ⟨[.refused .notOwned], .responds _ _ hb, rfl, .inl rfl, rfl⟩
    · rw [h]
      exact ⟨[.refused .operandRange], .responds _ _ hb, rfl, .inl rfl, rfl⟩
    · exact ⟨[], by rw [h, hw]; exact .latches _ p hp hb ho hr, by simp [h], by simp [h], by simp [h]⟩
  · obtain ⟨a, f, ha, hf, rfl⟩ := issueTxn_next h
    exact ⟨[], .issues _ p a f hp hb hn (hl.trans hw) ha hf, by simp, by simp, rfl⟩
  · obtain ⟨_, rfl⟩ | ⟨d, rest, ht, rfl⟩ | ⟨d, rest, ht, h⟩ := awaitAnswer_next h
    · exact ⟨[], .waits _, by simp, .inl rfl, rfl⟩
    · exact ⟨[], .waits _, by simp, .inr ⟨_, ht⟩, rfl⟩
    · obtain ⟨rs, hm, hr, htr, hh⟩ :=
        completeTxn_move (s := { s with transport := rest }) hp hb hx (hl.trans hw) h
      exact ⟨rs, hm, hr, .inr ⟨_, by rw [htr]; exact ht⟩, hh⟩

/-- Everything a step of an operation can do: to `S`, to the responses, to the transport's moves; it leaves
the host's moves alone. -/
theorem exec_move {i : Instr} {s t : State} (h : exec i s = .next t) :
    ∃ rs, OpMove i s.seq t.seq rs ∧ t.responses = s.responses ++ rs ∧
      (t.transport = s.transport ∨ ∃ m, s.transport = m :: t.transport) ∧ t.host = s.host := by
  cases hp : planOf i with
  | some p => exact runBus_move hp (exec_of_planOf hp s ▸ h)
  | none =>
    cases i <;> simp [planOf] at hp
    case init a =>
      simp only [exec, execInit] at h
      obtain ⟨hb, ⟨r, _, rfl⟩ | ⟨_, rfl⟩⟩ := runNow_next h
      · exact ⟨_, .responds _ _ hb, rfl, .inl rfl, rfl⟩
      · exact ⟨_, .takes _ a rfl hb, rfl, .inl rfl, rfl⟩
    case release =>
      simp only [exec, execRelease] at h
      obtain ⟨hb, ⟨r, _, rfl⟩ | ⟨_, rfl⟩⟩ := runNow_next h
      · exact ⟨_, .responds _ _ hb, rfl, .inl rfl, rfl⟩
      · exact ⟨_, .drops _ rfl hb, rfl, .inl rfl, rfl⟩
    case eco2ToAqi v =>
      simp only [exec, execEco2ToAqi] at h
      obtain ⟨hb, ⟨r, _, rfl⟩ | ⟨_, rfl⟩⟩ := runNow_next h
      · exact ⟨_, .responds _ _ hb, rfl, .inl rfl, rfl⟩
      · obtain ⟨r, hr⟩ := classify_eq v s
        exact ⟨[r], by rw [hr]; exact .responds _ _ hb, by rw [hr]; rfl, by simp [hr], by simp [hr]⟩

/-- Everything a step of the machine can be: a CANCEL; a step of the operation latched; an ACCEPT of a legal
or of an `Illegal` word; or nothing but a move of the host passed over. -/
theorem step_cases {v : ExecVariant} {s t : State} (h : stepWith v s = .next t) :
    (∃ rest, v = .suspending ∧ s.seq.busy = true ∧ s.host = .cancel :: rest ∧
      t = cancelOp { s with host := rest }) ∨
    (∃ ms i, s.seq.busy = true ∧ wordsOf ms = wordsOf s.host ∧ ms <:+ s.host ∧
      decode s.seq.latched = .ok i ∧ exec i { s with host := ms } = .next t) ∨
    (∃ cw rest i, s.seq.busy = false ∧ s.host = .present cw :: rest ∧ decode cw = .ok i ∧
      exec i { s with host := rest } = .next t) ∨
    (∃ cw rest e, s.seq.busy = false ∧ s.host = .present cw :: rest ∧ decode cw = .error e ∧
      t = State.abnormalEnd { s with host := rest } (.refuse .illegalOp)) ∨
    (∃ ms, s.seq.busy = false ∧ ms <:+ s.host ∧ t = { s with host := ms }) := by
  unfold stepWith at h
  cases hb : s.seq.busy with
  | true =>
    simp only [hb, if_true] at h
    obtain ⟨rest, hv, hh, he⟩ | ⟨ms, hw, hs, he⟩ := stepBusy_cases v s
    · rw [he] at h
      exact .inl ⟨rest, hv, rfl, hh, (next_inj h).symm⟩
    · rw [he, advance] at h
      cases hd : decode s.seq.latched with
      | error e => simp [hd] at h
      | ok i => exact .inr (.inl ⟨ms, i, rfl, hw, hs, rfl, by simpa [hd] using h⟩)
  | false =>
    simp only [hb] at h
    obtain ⟨cw, rest, hh, he⟩ | ⟨ms, hs, he⟩ := stepIdle_cases s
    · simp only [Bool.false_eq_true, if_false, he, acceptWord] at h
      cases hd : decode cw with
      | error e => exact .inr (.inr (.inr (.inl ⟨cw, rest, e, rfl, hh, hd, by
          simpa [hd] using (next_inj (by simpa [hd] using h)).symm⟩)))
      | ok i => exact .inr (.inr (.inl ⟨cw, rest, i, rfl, hh, hd, by simpa [hd] using h⟩))
    · simp only [Bool.false_eq_true, if_false, he] at h
      exact .inr (.inr (.inr (.inr ⟨ms, rfl, hs, (next_inj h).symm⟩)))

end Sys2Proof.Machine
end

