-- ==== Sys2Proof/Tests/Slice0.lean ====
section
/-!
SUPPORT. The model's own tests and the witnesses of the obligations' hypotheses. Expected values come from the
rules and from 95_test_vectors.md, never from the model.
-/

namespace Sys2Proof.Tests

open Host (Outcome)
open Sys2Proof.Machine

/-! ## States the tests start from -/

/-- `IDLE`, with the handle on device 0x53. -/
def idleState : State :=
  { State.reset with seq := { Seq.reset with owned := true, devAddr := some 0x53 } }

/-- `READY(k)` of the operation `i` on device 0x53. -/
def readyState (i : Instr) (k : Nat) : State :=
  { State.reset with
    seq := { Seq.reset with
      owned := true
      devAddr := some 0x53
      busy := true
      curOp := i.opcode
      curArg := i.operand
      stepIdx := BitVec.ofNat 1 k } }

/-- `WAIT(k)` of the operation `i` with `x` outstanding, the transport about to make the moves `ms`. -/
def waitState (i : Instr) (k : Nat) (x : Txn) (ms : List TransportMove) : State :=
  { readyState i k with
    seq := { (readyState i k).seq with inflight := some x, trace := [.issue x] }
    transport := ms }

/-- The same state, with the moves the host is to make. -/
def hosted (ms : List HostMove) (s : State) : State := { s with host := ms }

/-- The transport succeeds, with these four bytes. -/
def good (b0 b1 b2 b3 : Byte) : List TransportMove := [.answer (.success b0 b1 b2 b3)]

/-- The transport fails, with the one error every `TERR` has. -/
def bad : List TransportMove := [.answer (.failure .first)]

/-- The trace after a step that answers a next state. -/
def traceOf : Outcome State Fault Refusal → Option (List Event)
  | .next s => some s.seq.trace
  | .fault _ => none
  | .refused _ => none

/-- The responses after a step that answers a next state. -/
def responsesOf : Outcome State Fault Refusal → Option (List Response)
  | .next s => some s.responses
  | .fault _ => none
  | .refused _ => none

/-- The control state after a step that answers a next state. -/
def ctrlOf : Outcome State Fault Refusal → Option Ctrl
  | .next s => some s.seq.ctrl
  | .fault _ => none
  | .refused _ => none

/-! ## Well-formedness: one ill-formed term for each check -/

theorem test_wf_setTemp_too_large : (Instr.setTemp 2147483648).wf = false := by decide

theorem test_wf_setTemp_too_small : (Instr.setTemp (-2147483649)).wf = false := by decide

theorem test_wf_setHum_too_large : (Instr.setHum 65536).wf = false := by decide

theorem test_wf_eco2ToAqi_too_large : (Instr.eco2ToAqi 65536).wf = false := by decide

theorem test_wf_bounds : (Instr.setTemp (-2147483648)).wf = true ∧ (Instr.setHum 65535).wf = true := by decide

/-! ## Decoding: one word for each constructor, its bits written out from R54 to R56 -/

-- op 00000001, arg[31:7] reserved, arg[6:0] = 1010011 (0x53)
theorem test_decode_init :
    decode 0b0000000100000000000000000000000001010011 = .ok (.init 0x53) := by decide

theorem test_decode_release :
    decode 0b0000001000000000000000000000000000000000 = .ok .release := by decide

theorem test_decode_reset :
    decode 0b0000001100000000000000000000000000000000 = .ok .reset := by decide

theorem test_decode_idle :
    decode 0b0000010000000000000000000000000000000000 = .ok .idle := by decide

theorem test_decode_deepSleep :
    decode 0b0000010100000000000000000000000000000000 = .ok .deepSleep := by decide

theorem test_decode_operational :
    decode 0b0000011000000000000000000000000000000000 = .ok .operational := by decide

theorem test_decode_clearCommand :
    decode 0b0000011100000000000000000000000000000000 = .ok .clearCommand := by decide

theorem test_decode_firmwareVersion :
    decode 0b0000100000000000000000000000000000000000 = .ok .firmwareVersion := by decide

theorem test_decode_status :
    decode 0b0000100100000000000000000000000000000000 = .ok .status := by decide

theorem test_decode_airqualityIndex :
    decode 0b0000101000000000000000000000000000000000 = .ok .airqualityIndex := by decide

theorem test_decode_tvoc :
    decode 0b0000101100000000000000000000000000000000 = .ok .tvoc := by decide

theorem test_decode_eco2 :
    decode 0b0000110000000000000000000000000000000000 = .ok .eco2 := by decide

theorem test_decode_tempAndHum :
    decode 0b0000110100000000000000000000000000000000 = .ok .tempAndHum := by decide

-- op 00001110, arg = 0xFFFFFE0C, the two's complement of -500
theorem test_decode_setTemp :
    decode 0b0000111011111111111111111111111000001100 = .ok (.setTemp (-500)) := by decide

-- op 00001111, arg[15:0] = 0x13A1 = 5025
theorem test_decode_setHum :
    decode 0b0000111100000000000000000001001110100001 = .ok (.setHum 5025) := by decide

-- op 00010000, arg[15:0] = 0x02B2 = 690
theorem test_decode_eco2ToAqi :
    decode 0b0001000000000000000000000000001010110010 = .ok (.eco2ToAqi 690) := by decide

-- op 00010001, arg[4] drive, arg[3] polarity, arg[2] on_gpr, arg[1] on_drdy, arg[0] en = 10011
theorem test_decode_setIntcfg :
    decode 0b0001000100000000000000000000000000010011 =
      .ok (.setIntcfg ⟨true, true, false, .activeLow, .pushPull⟩) := by decide

theorem test_decode_illegal_op :
    decode 0x0000000000 = .error .illegalOp ∧ decode 0x1200000000 = .error .illegalOp ∧
      decode 0xFF00000000 = .error .illegalOp := by decide

-- the lowest reserved bit of each sub-format that has one
theorem test_decode_reserved_bit :
    decode 0x0200000001 = .error .reservedBit ∧ decode 0x0100000080 = .error .reservedBit ∧
      decode 0x0F00010000 = .error .reservedBit ∧ decode 0x1100000020 = .error .reservedBit := by decide

theorem test_decodeTableWord :
    decodeTableWord 40 0x0E000009F6 = some (.setTemp 2550) ∧ decodeTableWord 40 0x1200000000 = none := by decide

/-! ## The step from reset with a word presented -/

theorem test_step_init_from_reset :
    (match step (State.reset.withFetchWord 40 0x0100000053) with
      | .next s => some (s.seq.owned, s.seq.devAddr, s.responses)
      | .fault _ => none
      | .refused _ => none) = some (true, some 0x53, [.ok .unit]) := by decide

-- P4 of 95_test_vectors.md, line 1
theorem test_step_status_from_reset :
    responsesOf (step (State.reset.withFetchWord 40 0x0900000000)) = some [.refused .notOwned] := by decide

theorem test_step_illegal_from_reset :
    responsesOf (step (State.reset.withFetchWord 40 0x1200000000)) = some [.refused .illegalOp] := by decide

/-! ## One step of each operation -/

-- P4, line 3
theorem test_init_refused_when_owned :
    responsesOf (exec (.init 0x52) idleState) = some [.refused .alreadyOwned] := by decide

theorem test_release :
    exec .release idleState = .next { State.reset with responses := [.ok .unit] } := rfl

theorem test_reset_frame :
    traceOf (exec .reset (readyState .reset 0)) = some [.issue (.w 0x53 [0x10, 0xF0])] := by decide

theorem test_idle_frame :
    traceOf (exec .idle (readyState .idle 0)) = some [.issue (.w 0x53 [0x10, 0x01])] := by decide

-- the example of R81
theorem test_idle_bus_error :
    responsesOf (exec .idle (waitState .idle 0 (.w 0x53 [0x10, 0x01]) bad)) = some [.busError .first] := by
  decide

theorem test_deepSleep_frame :
    traceOf (exec .deepSleep (readyState .deepSleep 0)) = some [.issue (.w 0x53 [0x10, 0x00])] := by decide

theorem test_operational_frame :
    traceOf (exec .operational (readyState .operational 0)) = some [.issue (.w 0x53 [0x10, 0x02])] := by decide

theorem test_clearCommand_goes_on :
    ctrlOf (exec .clearCommand
      (waitState .clearCommand 0 (.w 0x53 [0x12, Config.cmdNop]) (good 0 0 0 0))) = some (.ready 1) := rfl

theorem test_clearCommand_second_frame :
    traceOf (exec .clearCommand (readyState .clearCommand 1)) =
      some [.issue (.w 0x53 [0x12, Config.cmdClear])] := rfl

theorem test_firmwareVersion_second_frame :
    traceOf (exec .firmwareVersion (readyState .firmwareVersion 1)) = some [.issue (.wr 0x53 [0x48] 3)] := by
  decide

-- the example of R85
theorem test_firmwareVersion_result :
    responsesOf (exec .firmwareVersion
      (waitState .firmwareVersion 1 (.wr 0x53 [0x48] 3) (good 0x05 0x04 0x06 0x99))) =
        some [.ok (.firmware 5 4 6)] := by decide

-- the example of R88
theorem test_status_0x84 :
    responsesOf (exec .status (waitState .status 0 (.wr 0x53 [0x20] 1) (good 0x84 0 0 0))) =
      some [.ok (.status ⟨true, false, .warmupPhase, false, false⟩)] := by decide

-- R111 (c), the third vector, with bits 5 and 4 set (R72)
theorem test_status_ignores_bits_5_4 :
    responsesOf (exec .status (waitState .status 0 (.wr 0x53 [0x20] 1) (good 0x3E 0 0 0))) =
      some [.ok (.status ⟨false, false, .invalidOutput, true, false⟩)] := by decide

-- the examples of R89 and R90
theorem test_airqualityIndex_fallback :
    responsesOf (exec .airqualityIndex (waitState .airqualityIndex 0 (.wr 0x53 [0x21] 1) (good 0x07 0 0 0))) =
      some [.ok (.aqi .unhealthy)] := by decide

theorem test_airqualityIndex_mask :
    responsesOf (exec .airqualityIndex (waitState .airqualityIndex 0 (.wr 0x53 [0x21] 1) (good 0xFA 0 0 0))) =
      some [.ok (.aqi .good)] := by decide

-- the example of R91
theorem test_tvoc_low_byte_first :
    responsesOf (exec .tvoc (waitState .tvoc 0 (.wr 0x53 [0x22] 2) (good 0x2C 0x01 0 0))) =
      some [.ok (.count 300)] := by decide

-- the example of R92
theorem test_eco2_below_400_is_ok :
    responsesOf (exec .eco2 (waitState .eco2 0 (.wr 0x53 [0x24] 2) (good 0x8F 0x01 0 0))) =
      some [.ok (.count 399)] := by decide

-- the example of R93
theorem test_tempAndHum_example :
    responsesOf (exec .tempAndHum
      (waitState .tempAndHum 0 (.wr 0x53 [0x30] 4) (good 0x89 0x4A 0x80 0x64))) =
        some [.ok (.tempHum 2499 5025)] := by decide

-- raw 17481 gives -1 (R93, R95)
theorem test_tempAndHum_negative :
    responsesOf (exec .tempAndHum
      (waitState .tempAndHum 0 (.wr 0x53 [0x30] 4) (good 0x49 0x44 0xFF 0xFF))) =
        some [.ok (.tempHum 0xFFFFFFFF 12799)] := by decide

-- the example of R104
theorem test_setTemp_frame :
    traceOf (exec (.setTemp 2550) (readyState (.setTemp 2550) 0)) =
      some [.issue (.w 0x53 [0x13, 0xA9, 0x4A])] := by decide

theorem test_setTemp_lowest :
    responsesOf (exec (.setTemp (-27317)) idleState) = some [.refused .operandRange] ∧
      ctrlOf (exec (.setTemp (-27316)) idleState) = some (.ready 0) := by decide

-- the example of R105
theorem test_setHum_frame :
    traceOf (exec (.setHum 5025) (readyState (.setHum 5025) 0)) =
      some [.issue (.w 0x53 [0x15, 0x80, 0x64])] := by decide

theorem test_setHum_highest :
    responsesOf (exec (.setHum 12800) idleState) = some [.refused .operandRange] ∧
      ctrlOf (exec (.setHum 12799) idleState) = some (.ready 0) := by decide

-- the examples of R106; no handle is needed
theorem test_eco2ToAqi_examples :
    responsesOf (exec (.eco2ToAqi 1499) State.reset) = some [.ok (.aqi .poor)] ∧
      responsesOf (exec (.eco2ToAqi 399) State.reset) = some [.convError 399] := by decide

-- 0x23 is {en, on_drdy, push_pull}; without en the byte is 0x22 (R114, 90_conflicts.md C1)
theorem test_setIntcfg_frame :
    traceOf (exec (.setIntcfg ⟨true, true, false, .activeLow, .pushPull⟩)
      (readyState (.setIntcfg ⟨true, true, false, .activeLow, .pushPull⟩) 0)) =
        some [.issue (.w 0x53 [0x11, 0x23])] := by decide

theorem test_setIntcfg_no_implied_enable :
    traceOf (exec (.setIntcfg ⟨false, true, false, .activeLow, .pushPull⟩)
      (readyState (.setIntcfg ⟨false, true, false, .activeLow, .pushPull⟩) 0)) =
        some [.issue (.w 0x53 [0x11, 0x22])] := by decide

/-! ## Cancellation, a busy block, the transport -/

-- 95_test_vectors.md 2.8: TVOC cancelled in WAIT(0)
theorem test_cancel_in_wait :
    traceOf (stepWith .suspending (hosted [.cancel] (waitState .tvoc 0 (.wr 0x53 [0x22] 2) []))) =
      some [.issue (.wr 0x53 [0x22] 2), .abandoned] := by decide

theorem test_late_answer_is_discarded :
    exec .tvoc (waitState .tvoc 0 (.wr 0x53 [0x22] 2) [.late (.success 1 2 3 4)]) =
      .next (waitState .tvoc 0 (.wr 0x53 [0x22] 2) []) := rfl

theorem test_other_word_while_busy_faults :
    exec .eco2 (readyState .tvoc 0) = .fault .presentedWhileBusy := rfl

/-! ## The packed response and the textual syntax -/

-- running 1, error 0, validity 01, data_ready 1, gpr 0: data = 0b100110 (R59)
theorem test_pack_status :
    (OpResult.status ⟨true, false, .warmupPhase, true, false⟩).pack = 0b100110 := by decide

theorem test_pack_tempHum : (OpResult.tempHum 0xFFFFFFFF 5025).pack = 0x13A1FFFFFFFF := by decide

theorem test_assembly_line :
    assemblyLine (.init 0x53) = "INIT 0x53" ∧ assemblyLine (.setHum 5025) = "SET_HUM 5025" := by decide
/-! ## Witnesses: a state and operands that meet each obligation's hypotheses together

Each is named after its obligation. Where the hypotheses are `ReadyFor` or `Answering`, the states are
`readyState` and `waitState` at the operations the obligation names.
-/

/-- `readyState i k` is in `READY(k)` of `i`, for the two values of `S.step`. -/
theorem ready_ok (i : Instr) (k : Nat) (hk : k < 2) : (readyState i k).ReadyFor i k 0x53 :=
  ⟨rfl, rfl, rfl, by simpa [readyState] using hk, rfl⟩

/-- `waitState i k x (.answer d :: rest)` is in `WAIT(k)` of `i`, about to be answered with `d`. -/
theorem wait_ok (i : Instr) (k : Nat) (hk : k < 2) (x : Txn) (d : Draw) (rest : List TransportMove) :
    (waitState i k x (.answer d :: rest)).Answering i k x d rest :=
  ⟨rfl, rfl, rfl, by simpa [waitState, readyState] using hk, rfl⟩

theorem witness_DecodeEncodeRoundTrip :
    (Instr.setTemp (-2147483648)).wf = true ∧ decode 0x110000001F =
      .ok (.setIntcfg ⟨true, true, true, .activeHigh, .pushPull⟩) := by decide

-- each clause at the boundaries of its range of op
theorem witness_DecodeIsTotalAndUnambiguous :
    (CmdWord.op 0x00FFFFFFFF).toNat < 0x01 ∧ 0x11 < (CmdWord.op 0x1200000000).toNat ∧
    (0x01 ≤ (CmdWord.op 0x0100000080).toNat ∧ CmdWord.arg 0x0100000080 &&& reservedBits 0x01 ≠ 0) ∧
    ((CmdWord.op 0x1100000020).toNat ≤ 0x11 ∧ CmdWord.arg 0x1100000020 &&& reservedBits 0x11 ≠ 0) ∧
    ((CmdWord.op 0x010000007F).toNat = 0x01 ∧ CmdWord.arg 0x010000007F &&& reservedBits 0x01 = 0) ∧
    ((CmdWord.op 0x110000001F).toNat = 0x11 ∧ CmdWord.arg 0x110000001F &&& reservedBits 0x11 = 0) ∧
    (Instr.setHum 65535).wf = true := by decide

theorem witness_StepRunsDecodedWord :
    (State.reset.seq.busy = false ∧ decode 0x0100000053 = .ok (.init 0x53) ∧
      (hosted [.present 0x0100000053] State.reset).host = [.present 0x0100000053]) ∧
    ((readyState .tvoc 0).seq.busy = true ∧ decode (readyState .tvoc 0).seq.latched = .ok .tvoc ∧
      (readyState .tvoc 0).host = []) ∧
    (hosted [.present 0] (readyState .tvoc 0)).host = [.present 0] ∧
    (hosted [.pass] (readyState .tvoc 0)).host = [.pass] := by decide

theorem witness_PresentedWordRunsNext :
    0x0F000013A1 < 2 ^ 40 ∧ decode (BitVec.ofNat 40 0x0F000013A1) = .ok (.setHum 5025) := by decide

theorem witness_IllegalWordRefused :
    State.reset.seq.busy = false ∧ CmdWord.op 0x0000000000 = 0x00 ∧
    0x12 ≤ (CmdWord.op 0x1200000000).toNat ∧ 0x12 ≤ (CmdWord.op 0xFF00000000).toNat ∧
    CmdWord.arg 0x0900000001 &&& reservedBits (CmdWord.op 0x0900000001) ≠ 0 ∧
    (hosted [.present 0x0900000001] State.reset).host = .present 0x0900000001 :: [] := by decide

theorem witness_ResetRefusesAllButInitAndClassify :
    needsHandle .release = true ∧ needsHandle (.setTemp 0) = true := by decide

theorem witness_InitCreatesHandle :
    (State.reset.seq.busy = false ∧ State.reset.seq.owned = false) ∧
    (idleState.seq.busy = false ∧ idleState.seq.owned = true) ∧
    ((0x80 : BitVec 32) &&& 0xFFFFFF80 ≠ 0 ∧ (0x7F : BitVec 32) &&& 0xFFFFFF80 = 0) := by decide

theorem witness_ReleaseDropsHandle :
    (idleState.seq.busy = false ∧ idleState.seq.owned = true) ∧
    (State.reset.seq.busy = false ∧ State.reset.seq.owned = false) ∧
    exec .release idleState = .next { State.reset with responses := [.ok .unit] } := ⟨by decide, by decide, rfl⟩

theorem witness_NoHandleRefused :
    needsHandle (.setHum 12800) = true ∧ State.reset.seq.busy = false ∧ State.reset.seq.owned = false := by
  decide

-- the four boundary temperatures and the two boundary humidities, in one state
theorem witness_CompensationOperandDomain :
    idleState.seq.busy = false ∧ idleState.seq.owned = true ∧
    ((-27316 : Int) ≤ -27316 ∧ (75084 : Int) ≤ 75084) ∧ ((-27317 : Int) < -27316 ∧ (75084 : Int) < 75085) ∧
    (12799 : Nat) ≤ 12799 ∧ 12799 < (12800 : Nat) := by decide

theorem witness_FirstFailingCheckAnswers :
    (State.reset.seq.busy = false ∧ decode 0x1200000000 = .error .illegalOp) ∧
    (decode 0x0900000000 = .ok .status ∧ needsHandle .status = true ∧ State.reset.seq.owned = false) ∧
    (idleState.seq.busy = false ∧ decode 0x0100000053 = .ok (.init 0x53) ∧ idleState.seq.owned = true) ∧
    (decode 0x0F00003200 = .ok (.setHum 12800) ∧ needsHandle (.setHum 12800) = true ∧
      inDomain (.setHum 12800) = false) ∧
    decode 0x100000018F = .ok (.eco2ToAqi 399) := by decide

theorem witness_AcceptLatchesWord :
    usesBus (.setTemp 75084) = true ∧ inDomain (.setTemp 75084) = true ∧ idleState.seq.busy = false ∧
      idleState.seq.owned = true := by decide

theorem witness_ModeOperationsWriteTheirCode :
    (readyState .deepSleep 0).ReadyFor .deepSleep 0 0x53 ∧ (readyState .idle 0).ReadyFor .idle 0 0x53 ∧
    (readyState .operational 0).ReadyFor .operational 0 0x53 ∧ (readyState .reset 0).ReadyFor .reset 0 0x53 ∧
    (waitState .reset 0 (.w 0x53 [0x10, 0xF0]) (good 0 0 0 0)).Answering .reset 0 (.w 0x53 [0x10, 0xF0])
      (.success 0 0 0 0) [] ∧
    (waitState .reset 0 (.w 0x53 [0x10, 0xF0]) bad).Answering .reset 0 (.w 0x53 [0x10, 0xF0])
      (.failure .first) [] :=
  ⟨ready_ok _ 0 (by decide), ready_ok _ 0 (by decide), ready_ok _ 0 (by decide), ready_ok _ 0 (by decide),
    wait_ok _ 0 (by decide) _ _ _, wait_ok _ 0 (by decide) _ _ _⟩

theorem witness_ClearCommandIsTwoWrites :
    (readyState .clearCommand 0).ReadyFor .clearCommand 0 0x53 ∧
    (waitState .clearCommand 0 (.w 0x53 [0x12, Config.cmdNop]) (good 0 0 0 0)).Answering .clearCommand 0
      (.w 0x53 [0x12, Config.cmdNop]) (.success 0 0 0 0) [] ∧
    (readyState .clearCommand 1).ReadyFor .clearCommand 1 0x53 ∧
    (waitState .clearCommand 1 (.w 0x53 [0x12, Config.cmdClear]) (good 0 0 0 0)).Answering .clearCommand 1
      (.w 0x53 [0x12, Config.cmdClear]) (.success 0 0 0 0) [] ∧
    (waitState .clearCommand 1 (.w 0x53 [0x12, Config.cmdClear]) bad).Answering .clearCommand 1
      (.w 0x53 [0x12, Config.cmdClear]) (.failure .first) [] :=
  ⟨ready_ok _ 0 (by decide), wait_ok _ 0 (by decide) _ _ _, ready_ok _ 1 (by decide),
    wait_ok _ 1 (by decide) _ _ _, wait_ok _ 1 (by decide) _ _ _⟩

theorem witness_FirmwareVersionWritesThenReads :
    (readyState .firmwareVersion 0).ReadyFor .firmwareVersion 0 0x53 ∧
    (waitState .firmwareVersion 0 (.w 0x53 [0x12, Config.cmdGetFw]) (good 0 0 0 0)).Answering .firmwareVersion
      0 (.w 0x53 [0x12, Config.cmdGetFw]) (.success 0 0 0 0) [] ∧
    (readyState .firmwareVersion 1).ReadyFor .firmwareVersion 1 0x53 ∧
    (waitState .firmwareVersion 1 (.wr 0x53 [0x48] 3) (good 5 4 6 0)).Answering .firmwareVersion 1
      (.wr 0x53 [0x48] 3) (.success 5 4 6 0) [] ∧
    (waitState .firmwareVersion 1 (.wr 0x53 [0x48] 3) bad).Answering .firmwareVersion 1
      (.wr 0x53 [0x48] 3) (.failure .first) [] :=
  ⟨ready_ok _ 0 (by decide), wait_ok _ 0 (by decide) _ _ _, ready_ok _ 1 (by decide),
    wait_ok _ 1 (by decide) _ _ _, wait_ok _ 1 (by decide) _ _ _⟩

theorem witness_StatusReadsAndDecodes :
    (readyState .status 0).ReadyFor .status 0 0x53 ∧
    (waitState .status 0 (.wr 0x53 [0x20] 1) (good 0x84 0 0 0)).Answering .status 0 (.wr 0x53 [0x20] 1)
      (.success 0x84 0 0 0) [] ∧
    (waitState .status 0 (.wr 0x53 [0x20] 1) bad).Answering .status 0 (.wr 0x53 [0x20] 1)
      (.failure .first) [] :=
  ⟨ready_ok _ 0 (by decide), wait_ok _ 0 (by decide) _ _ _, wait_ok _ 0 (by decide) _ _ _⟩

theorem witness_AirqualityIndexReadsAndMasks :
    (readyState .airqualityIndex 0).ReadyFor .airqualityIndex 0 0x53 ∧
    (waitState .airqualityIndex 0 (.wr 0x53 [0x21] 1) (good 0x07 0 0 0)).Answering .airqualityIndex 0
      (.wr 0x53 [0x21] 1) (.success 0x07 0 0 0) [] ∧
    (waitState .airqualityIndex 0 (.wr 0x53 [0x21] 1) bad).Answering .airqualityIndex 0
      (.wr 0x53 [0x21] 1) (.failure .first) [] :=
  ⟨ready_ok _ 0 (by decide), wait_ok _ 0 (by decide) _ _ _, wait_ok _ 0 (by decide) _ _ _⟩

theorem witness_TvocReadsCount :
    (readyState .tvoc 0).ReadyFor .tvoc 0 0x53 ∧
    (waitState .tvoc 0 (.wr 0x53 [0x22] 2) (good 0xFF 0xFF 0 0)).Answering .tvoc 0 (.wr 0x53 [0x22] 2)
      (.success 0xFF 0xFF 0 0) [] ∧
    (waitState .tvoc 0 (.wr 0x53 [0x22] 2) bad).Answering .tvoc 0 (.wr 0x53 [0x22] 2)
      (.failure .first) [] :=
  ⟨ready_ok _ 0 (by decide), wait_ok _ 0 (by decide) _ _ _, wait_ok _ 0 (by decide) _ _ _⟩

theorem witness_Eco2ReadsValue :
    (readyState .eco2 0).ReadyFor .eco2 0 0x53 ∧
    (waitState .eco2 0 (.wr 0x53 [0x24] 2) (good 0x8F 0x01 0 0)).Answering .eco2 0 (.wr 0x53 [0x24] 2)
      (.success 0x8F 0x01 0 0) [] ∧
    (waitState .eco2 0 (.wr 0x53 [0x24] 2) bad).Answering .eco2 0 (.wr 0x53 [0x24] 2)
      (.failure .first) [] :=
  ⟨ready_ok _ 0 (by decide), wait_ok _ 0 (by decide) _ _ _, wait_ok _ 0 (by decide) _ _ _⟩

/-- The accept step of the operations above: states with and without a handle, and the lowest and the highest
reserved bit of each sub-format. -/
theorem witness_commonChecks :
    (State.reset.seq.busy = false ∧ State.reset.seq.owned = false) ∧
    (idleState.seq.busy = false ∧ idleState.seq.owned = true) ∧
    ((0x00000001 : BitVec 32) &&& 0xFFFFFFFF ≠ 0 ∧ (0x80000000 : BitVec 32) &&& 0xFFFFFFFF ≠ 0) ∧
    ((0x00010000 : BitVec 32) &&& 0xFFFF0000 ≠ 0 ∧ (0x80000000 : BitVec 32) &&& 0xFFFF0000 ≠ 0) ∧
    ((0x00000020 : BitVec 32) &&& 0xFFFFFFE0 ≠ 0 ∧ (0x80000000 : BitVec 32) &&& 0xFFFFFFE0 ≠ 0) := by decide

theorem witness_TempAndHumReadsAndConverts :
    (readyState .tempAndHum 0).ReadyFor .tempAndHum 0 0x53 ∧
    (waitState .tempAndHum 0 (.wr 0x53 [0x30] 4) (good 0xFF 0xFF 0xFF 0xFF)).Answering .tempAndHum 0
      (.wr 0x53 [0x30] 4) (.success 0xFF 0xFF 0xFF 0xFF) [] ∧
    (waitState .tempAndHum 0 (.wr 0x53 [0x30] 4) bad).Answering .tempAndHum 0 (.wr 0x53 [0x30] 4)
      (.failure .first) [] :=
  ⟨ready_ok _ 0 (by decide), wait_ok _ 0 (by decide) _ _ _, wait_ok _ 0 (by decide) _ _ _⟩

theorem witness_SetTempWritesRaw :
    (idleState.seq.busy = false ∧ idleState.seq.owned = true) ∧
    ((-27317 : Int) < -27316 ∧ (75084 : Int) < 75085 ∧ (-27316 : Int) ≤ 75084) ∧
    (readyState (.setTemp (-27316)) 0).ReadyFor (.setTemp (-27316)) 0 0x53 ∧
    (readyState (.setTemp 75084) 0).ReadyFor (.setTemp 75084) 0 0x53 ∧
    (waitState (.setTemp 75084) 0 (.w 0x53 [0x13, 0xFF, 0xFF]) (good 0 0 0 0)).Answering (.setTemp 75084) 0
      (.w 0x53 [0x13, 0xFF, 0xFF]) (.success 0 0 0 0) [] ∧
    (waitState (.setTemp 75084) 0 (.w 0x53 [0x13, 0xFF, 0xFF]) bad).Answering (.setTemp 75084) 0
      (.w 0x53 [0x13, 0xFF, 0xFF]) (.failure .first) [] :=
  ⟨by decide, by decide, ready_ok _ 0 (by decide), ready_ok _ 0 (by decide), wait_ok _ 0 (by decide) _ _ _,
    wait_ok _ 0 (by decide) _ _ _⟩

theorem witness_SetHumWritesRaw :
    (idleState.seq.busy = false ∧ idleState.seq.owned = true) ∧ 12799 < (12800 : Nat) ∧
    (readyState (.setHum 12799) 0).ReadyFor (.setHum 12799) 0 0x53 ∧
    (waitState (.setHum 12799) 0 (.w 0x53 [0x15, 0xFA, 0xFF]) (good 0 0 0 0)).Answering (.setHum 12799) 0
      (.w 0x53 [0x15, 0xFA, 0xFF]) (.success 0 0 0 0) [] ∧
    (waitState (.setHum 12799) 0 (.w 0x53 [0x15, 0xFA, 0xFF]) bad).Answering (.setHum 12799) 0
      (.w 0x53 [0x15, 0xFA, 0xFF]) (.failure .first) [] :=
  ⟨by decide, by decide, ready_ok _ 0 (by decide), wait_ok _ 0 (by decide) _ _ _,
    wait_ok _ 0 (by decide) _ _ _⟩

/-- All five fields 1: the byte 0x6B (R113). -/
def allFields : IntCfg := ⟨true, true, true, .activeHigh, .pushPull⟩

theorem witness_SetIntcfgWritesEncodedByte :
    (readyState (.setIntcfg allFields) 0).ReadyFor (.setIntcfg allFields) 0 0x53 ∧
    (waitState (.setIntcfg allFields) 0 (.w 0x53 [0x11, 0x6B]) (good 0 0 0 0)).Answering (.setIntcfg allFields)
      0 (.w 0x53 [0x11, 0x6B]) (.success 0 0 0 0) [] ∧
    (waitState (.setIntcfg allFields) 0 (.w 0x53 [0x11, 0x6B]) bad).Answering (.setIntcfg allFields)
      0 (.w 0x53 [0x11, 0x6B]) (.failure .first) [] :=
  ⟨ready_ok _ 0 (by decide), wait_ok _ 0 (by decide) _ _ _, wait_ok _ 0 (by decide) _ _ _⟩

-- the values where the ranges of R99 meet, in states with and without a handle
theorem witness_Eco2ToAqiClassifies :
    (State.reset.seq.busy = false ∧ idleState.seq.busy = false) ∧
    [399, 400, 599, 600, 799, 800, 999, 1000, 1499, 1500, 65535].all (· ≤ 65535) = true := by decide

theorem witness_BusErrorEndsAnyOperation :
    usesBus .firmwareVersion = true ∧ (1 : Nat) ≤ 1 ∧
    (waitState .firmwareVersion 1 (.wr 0x53 [0x48] 3) bad).Answering .firmwareVersion 1
      (.wr 0x53 [0x48] 3) (.failure .first) [] :=
  ⟨rfl, by decide, wait_ok _ 1 (by decide) _ _ _⟩

/-- `TVOC` in `WAIT(0)`, with no move to come. -/
def tvocWaiting : State := waitState .tvoc 0 (.wr 0x53 [0x22] 2) []

/-- `TVOC` in `WAIT(0)`, about to be answered. -/
def tvocAnswered : State := waitState .tvoc 0 (.wr 0x53 [0x22] 2) (good 0x2C 0x01 0 0)

theorem witness_CancelAbandonsOperation :
    (hosted [.cancel] tvocWaiting).seq.busy = true ∧ tvocWaiting.seq.inflight ≠ none ∧
    (hosted [.cancel] (readyState .clearCommand 1)).seq.busy = true ∧
    (hosted [.cancel] tvocWaiting).host = .cancel :: [] := by decide

theorem witness_BlockingNeverAbandons :
    (hosted [.cancel] tvocAnswered).seq.busy = true ∧
    responsesOf (stepWith .blocking (hosted [.cancel] tvocAnswered)) = some [.ok (.count 300)] := by decide

theorem witness_VariantsAgreeWithoutCancel :
    NoCancel (hosted [.present 0x0B00000000, .pass] idleState).host := by simp [NoCancel, hosted]

theorem witness_SilentTransportHangs :
    Instr.tvoc.wf = true ∧ usesBus .tvoc = true ∧ tvocWaiting.seq.busy = true ∧
    tvocWaiting.seq.latched = encode .tvoc ∧ tvocWaiting.seq.inflight = some (.wr 0x53 [0x22] 2) ∧
    tvocWaiting.transport = [] ∧ tvocWaiting.host = [] := by decide

theorem witness_NoWordAcceptedWhileBusy :
    (hosted [.present 0x0200000000] tvocAnswered).seq.busy = true ∧
    responsesOf (stepWith .suspending (hosted [.present 0x0200000000] tvocAnswered)) =
      some [.ok (.count 300)] := by decide

/-- R27 in a state with an outstanding transaction. -/
theorem witness_StepKeepsInvariant : tvocAnswered.seq.Inv where
  busy_owned := fun _ => rfl
  inflight_busy := fun _ => rfl
  step_lt := fun _ => ⟨.tvoc, rfl, by decide⟩
  rx_len := by decide
  owned_addr := fun _ => ⟨0x53, rfl⟩
  inflight_planned := by
    intro t h
    obtain rfl := Option.some.inj h
    exact ⟨.tvoc, 0x53, rfl, rfl, rfl⟩

theorem witness_TraceStaysBracketed :
    tvocAnswered.seq.Inv ∧ tvocAnswered.seq.TraceOk ∧
    traceOf (stepWith .blocking tvocAnswered) =
      some [.issue (.wr 0x53 [0x22] 2), .doneBytes [0x2C, 0x01]] :=
  ⟨witness_StepKeepsInvariant, rfl, by decide⟩

theorem witness_OnlyListedAccessesAreIssued :
    traceOf (stepWith .blocking (readyState .tvoc 0)) = some [.issue (.wr 0x53 [0x22] 2)] := by decide

-- the second clause above, the third here
theorem witness_TraceGrowsInOrder :
    traceOf (stepWith .suspending (hosted [.cancel] tvocAnswered)) =
      some [.issue (.wr 0x53 [0x22] 2), .abandoned] := by decide

theorem witness_OnlyInitAndReleaseChangeHandle :
    (responsesOf (exec .tvoc tvocAnswered) = some [.ok (.count 300)] ∧ usesBus .tvoc = true) ∧
    responsesOf (exec (.eco2ToAqi 400) idleState) = some [.ok (.aqi .excellent)] := by decide

theorem witness_ImmediateOperationsLeaveBus :
    (usesBus (.init 0x52) = false ∧ responsesOf (exec (.init 0x52) State.reset) = some [.ok .unit]) ∧
    (usesBus .release = false ∧ responsesOf (exec .release idleState) = some [.ok .unit]) ∧
    (usesBus (.eco2ToAqi 0) = false ∧
      responsesOf (exec (.eco2ToAqi 0) State.reset) = some [.convError 0]) := by decide

/-- After a reading: what the operation left differs from `idleState` in its dead fields only. -/
def leftovers : State :=
  { idleState with seq := { idleState.seq with curOp := 0x0B, stepIdx := 1, rx := [0x2C, 0x01] } }

theorem witness_NothingSurvivesAnOperation : leftovers ≠ idleState ∧ leftovers.Alike idleState :=
  ⟨by decide, ⟨⟨rfl, rfl, rfl, rfl, rfl, fun h => by cases h⟩, rfl, rfl, rfl⟩⟩

/-- R27 in `IDLE` with a handle. -/
theorem idleState_inv : idleState.seq.Inv where
  busy_owned := fun h => by cases h
  inflight_busy := fun h => absurd rfl h
  step_lt := fun h => by cases h
  rx_len := by decide
  owned_addr := fun _ => ⟨0x53, rfl⟩
  inflight_planned := fun t h => by cases h

/-- `S.step` after a step that answers a next state. -/
def stepIdxOf : Outcome State Fault Refusal → Option Nat
  | .next s => some s.seq.stepIdx.toNat
  | .fault _ => none
  | .refused _ => none

/-- `CLEAR_COMMAND` in `WAIT(0)`, its first write about to succeed. -/
def clearWaiting : State := waitState .clearCommand 0 (.w 0x53 [0x12, Config.cmdNop]) (good 0 0 0 0)

theorem clearWaiting_inv : clearWaiting.seq.Inv where
  busy_owned := fun _ => rfl
  inflight_busy := fun _ => rfl
  step_lt := fun _ => ⟨.clearCommand, rfl, by decide⟩
  rx_len := Nat.zero_le _
  owned_addr := fun _ => ⟨0x53, rfl⟩
  inflight_planned := by
    intro t h
    obtain rfl := Option.some.inj h
    exact ⟨.clearCommand, 0x53, rfl, rfl, rfl⟩

/-- R27 in `IDLE`, after an operation that left `S.step` at 1. -/
theorem leftovers_inv : leftovers.seq.Inv where
  busy_owned := fun h => by cases h
  inflight_busy := fun h => absurd rfl h
  step_lt := fun h => by cases h
  rx_len := by decide
  owned_addr := fun _ => ⟨0x53, rfl⟩
  inflight_planned := fun t h => by cases h

-- accept takes S.step from 1 to 0; success with a write to follow takes it from 0 to 1; an end leaves it
theorem witness_StepIndexCountsTransactions :
    (leftovers.seq.Inv ∧ leftovers.seq.stepIdx = 1 ∧
      ctrlOf (stepWith .blocking (hosted [.present 0x0B00000000] leftovers)) = some (.ready 0)) ∧
    (clearWaiting.seq.Inv ∧ clearWaiting.seq.busy = true ∧ clearWaiting.seq.inflight ≠ none ∧
      decode clearWaiting.seq.latched = .ok .clearCommand ∧
      clearWaiting.seq.stepIdx.toNat + 1 < nsteps .clearCommand ∧ clearWaiting.host = [] ∧
      clearWaiting.transport = .answer (.success 0 0 0 0) :: [] ∧
      ctrlOf (stepWith .blocking clearWaiting) = some (.ready 1)) ∧
    (tvocAnswered.seq.Inv ∧ ctrlOf (stepWith .blocking tvocAnswered) = some .idle ∧
      stepIdxOf (stepWith .blocking tvocAnswered) = some 0) :=
  ⟨⟨leftovers_inv, by decide, by decide⟩,
    ⟨clearWaiting_inv, rfl, Option.some_ne_none _, rfl, by decide, rfl, rfl, rfl⟩,
    ⟨witness_StepKeepsInvariant, by decide, by decide⟩⟩

theorem witness_StepsComposeIntoRun :
    idleState.seq.Inv ∧ idleState.seq.busy = false ∧ NoCancel [.pass] ∧
    runOp idleState.seq 0x0B00000000 [.success 0x2C 0x01 0 0] =
      ([.wr 0x53 [0x22] 2], some (.ok (.count 300))) ∧
    ({ idleState with
      host := [.present 0x0B00000000, .pass]
      transport := [.answer (.success 0x2C 0x01 0 0)] } : State).transport =
        [Draw.success 0x2C 0x01 0 0].map .answer ++ [] :=
  ⟨idleState_inv, rfl, by simp [NoCancel], by decide, rfl⟩

-- both clauses: two successes, and a failure of the second transaction
theorem witness_RunStopsAtFirstFailure :
    decode 0x0700000000 = .ok .clearCommand ∧ usesBus .clearCommand = true ∧ inDomain .clearCommand = true ∧
    idleState.seq.owned = true ∧ idleState.seq.devAddr = some 0x53 ∧
    [Draw.success 0 0 0 0, Draw.success 0 0 0 0].length = nsteps .clearCommand ∧
    (∀ d ∈ [Draw.success 0 0 0 0], ∀ e, d ≠ Draw.failure e) ∧
    [Draw.success 0 0 0 0, Draw.failure .first] = [Draw.success 0 0 0 0] ++ .failure .first :: [] :=
  ⟨by decide, rfl, rfl, rfl, rfl, rfl, by simp, rfl⟩

theorem witness_PlanHasItsTransactions :
    nsteps .firmwareVersion = 2 ∧ txnAt .firmwareVersion 0x53 1 = some (.wr 0x53 [0x48] 3) ∧
      txnAt .firmwareVersion 0x53 2 = none := ⟨rfl, rfl, rfl⟩

/-- `TVOC` in `WAIT(0)` with two answers to come. -/
def tvocTwice : State :=
  waitState .tvoc 0 (.wr 0x53 [0x22] 2) [.answer (.success 1 2 3 4), .answer (.failure .first)]

theorem witness_AnsweredOperationEnds :
    tvocTwice.seq.Inv ∧ tvocTwice.seq.busy = true ∧ NoCancel tvocTwice.host ∧
    tvocTwice.transport = [.answer (.success 1 2 3 4), .answer (.failure .first)] :=
  ⟨witness_StepKeepsInvariant, rfl, by simp [NoCancel, tvocTwice, waitState, readyState, State.reset], rfl⟩

theorem witness_FirmwareVersionTrace :
    idleState.seq.busy = false ∧ idleState.seq.owned = true ∧ idleState.seq.devAddr = some 0x53 ∧
    NoCancel [.pass] ∧
    ({ idleState with
      host := [.present 0x0800000000, .pass]
      transport := [.answer (.success 0 0 0 0), .answer (.success 5 4 6 0)] } : State).host =
        .present 0x0800000000 :: [.pass] :=
  ⟨rfl, rfl, rfl, by simp [NoCancel], rfl⟩

-- the ends of the ranges the four functions are stated over
theorem witness_TemperatureFormulas : (0 : Nat) ≤ 65535 ∧ (65535 : Nat) ≤ 65535 := by decide

theorem witness_HumidityFormulas : (0 : Nat) ≤ 65535 ∧ (65535 : Nat) ≤ 65535 := by decide

theorem witness_TemperatureRoundTrip :
    (65520 : Nat) ≤ 65535 ∧ 65520 % 16 = 0 ∧ (65535 : Nat) ≤ 65535 ∧ 65535 % 16 ≠ 0 ∧
      (-27315 : Int) ≤ -27315 ∧ (75084 : Int) ≤ 75084 := by decide

theorem witness_HumidityRoundTrip :
    (65408 : Nat) ≤ 65535 ∧ 65408 % 128 = 0 ∧ (65535 : Nat) ≤ 65535 ∧ (12799 : Nat) ≤ 12799 := by decide

theorem witness_IntcfgEncodeInjective :
    intcfgEncode allFields = intcfgEncode ⟨true, true, true, .activeHigh, .pushPull⟩ ∧
      (0x6B : Byte) &&& 0x94 = 0 := by decide

theorem witness_DrawsGiveExactlyTheLegalAnswers : (4 : Nat) ≤ 4 ∧ (0 : Nat) ≤ 4 := by decide

theorem witness_RegisterMapMatchesTable : DevReg.tempIn ≠ DevReg.rhIn := by decide

theorem witness_AccessesRespectMarks :
    txnAt .tempAndHum 0x53 0 = some (.wr 0x53 [0x30] 4) ∧
      txnAt (.setHum 12799) 0x53 0 = some (.w 0x53 [0x15, 0xFA, 0xFF]) := by decide

end Sys2Proof.Tests
end

section
/-!
PROOFS. The state of the block (10_state.md): the invariants of R27 and R21, the trace, the handle, the step
index, and the independence of the dead fields. Every proof goes through three layers: what a plan promises
(`BusOp.Sound`), what one step of the machine does to `S` (`step_seq`), and what each `OpMove` keeps.
-/

namespace Sys2Proof.Machine

open Host (Outcome)

/-! ## What every plan promises -/

/-- What the steps of an operation rely on in its plan: it has one or two transactions (R125), a read asks for
at most four bytes (R20), and the answer to its last transaction is enough for its result (R126). -/
structure BusOp.Sound (p : BusOp) : Prop where
  nsteps_pos : 0 < p.nsteps
  nsteps_le : p.nsteps ≤ 2
  read_le : ∀ reg n, Frame.r reg n ∈ p.frames → n ≤ 4
  finish_write : ∀ reg payload, p.frames.getLast? = some (.w reg payload) →
    ∀ rx, ∃ r, p.finish rx = some r
  finish_read : ∀ reg n, p.frames.getLast? = some (.r reg n) →
    ∀ bs, bs.length = n → ∃ r, p.finish bs = some r

/-- A plan of one or two writes, with no result. -/
theorem BusOp.sound_of_writes {p : BusOp} (hpos : 0 < p.nsteps) (hle : p.nsteps ≤ 2)
    (hw : ∀ f ∈ p.frames, ∃ reg payload, f = .w reg payload) (hf : p.finish = noResult) : p.Sound where
  nsteps_pos := hpos
  nsteps_le := hle
  read_le reg n hm := by
    obtain ⟨_, _, h⟩ := hw _ hm
    cases h
  finish_write _ _ _ rx := ⟨.unit, by rw [hf]; rfl⟩
  finish_read reg n hl := by
    obtain ⟨_, _, h⟩ := hw _ (List.mem_of_getLast? hl)
    cases h

/-- A plan of one read, whose decoder accepts as many bytes as are asked for (R87). -/
theorem accessor_sound {i : Instr} {reg : DevReg} {n : Nat} {dec : List Byte → Option OpResult} (hn : n ≤ 4)
    (hd : ∀ bs, bs.length = n → ∃ r, dec bs = some r) : (accessor i reg n dec).Sound where
  nsteps_pos := Nat.one_pos
  nsteps_le := one_le_two
  read_le reg' n' hm := by
    simp only [accessor, memRead, List.mem_singleton, Frame.r.injEq] at hm
    omega
  finish_write _ _ hl := by simp [accessor, memRead] at hl
  finish_read reg' n' hl bs hb := by
    simp only [accessor, memRead, List.getLast?_singleton, Option.some.injEq, Frame.r.injEq] at hl
    exact hd bs (by omega)

theorem modeWrite_sound (i : Instr) (m : Mode) : (modeWrite i m).Sound :=
  BusOp.sound_of_writes Nat.one_pos one_le_two (by simp [modeWrite, memWrite]) rfl

theorem compensationWrite_sound (i : Instr) (reg : DevReg) (raw : Int) : (compensationWrite i reg raw).Sound :=
  BusOp.sound_of_writes Nat.one_pos one_le_two (by simp [compensationWrite, memWrite]) rfl

theorem opClearCommand_sound : opClearCommand.Sound :=
  BusOp.sound_of_writes Nat.two_pos le_rfl (by simp [opClearCommand, memWrite]) rfl

theorem opSetIntcfg_sound (c : IntCfg) : (opSetIntcfg c).Sound :=
  BusOp.sound_of_writes Nat.one_pos one_le_two (by simp [opSetIntcfg, memWrite]) rfl

theorem finishStatus_some (bs : List Byte) (h : bs.length = 1) : ∃ r, finishStatus bs = some r := by
  obtain ⟨b, rfl⟩ := List.length_eq_one_iff.mp h
  exact ⟨_, rfl⟩

theorem finishAqi_some (bs : List Byte) (h : bs.length = 1) : ∃ r, finishAqi bs = some r := by
  obtain ⟨b, rfl⟩ := List.length_eq_one_iff.mp h
  exact ⟨_, rfl⟩

theorem finishCount_some (bs : List Byte) (h : bs.length = 2) : ∃ r, finishCount bs = some r := by
  obtain ⟨b0, b1, rfl⟩ := List.length_eq_two.mp h
  exact ⟨_, rfl⟩

theorem finishFirmware_some (bs : List Byte) (h : bs.length = 3) : ∃ r, finishFirmware bs = some r := by
  obtain ⟨b0, b1, b2, rfl⟩ := List.length_eq_three.mp h
  exact ⟨_, rfl⟩

theorem finishTempHum_some (bs : List Byte) (h : bs.length = 4) : ∃ r, finishTempHum bs = some r := by
  match bs, h with
  | [_, _, _, _], _ => exact ⟨_, rfl⟩

theorem opFirmwareVersion_sound : opFirmwareVersion.Sound where
  nsteps_pos := Nat.two_pos
  nsteps_le := le_rfl
  read_le reg n hm := by
    simp only [opFirmwareVersion, memWrite, memRead, List.mem_cons, reduceCtorEq, Frame.r.injEq,
      List.not_mem_nil, or_false, false_or] at hm
    omega
  finish_write _ _ hl := by simp [opFirmwareVersion, memRead] at hl
  finish_read reg n hl bs hb := by
    simp only [opFirmwareVersion, memRead, List.getLast?_cons_cons, List.getLast?_singleton, Option.some.injEq,
      Frame.r.injEq] at hl
    exact finishFirmware_some bs (by omega)

/-- Every plan of the model is sound. -/
theorem sound_of_planOf {i : Instr} {p : BusOp} (h : planOf i = some p) : p.Sound := by
  cases i <;> simp only [planOf, Option.some.injEq, reduceCtorEq] at h <;> subst h
  case reset => exact modeWrite_sound _ _
  case idle => exact modeWrite_sound _ _
  case deepSleep => exact modeWrite_sound _ _
  case operational => exact modeWrite_sound _ _
  case clearCommand => exact opClearCommand_sound
  case firmwareVersion => exact opFirmwareVersion_sound
  case status => exact accessor_sound (by decide) finishStatus_some
  case airqualityIndex => exact accessor_sound (by decide) finishAqi_some
  case tvoc => exact accessor_sound (by decide) finishCount_some
  case eco2 => exact accessor_sound (by decide) finishCount_some
  case tempAndHum => exact accessor_sound le_rfl finishTempHum_some
  case setTemp t => exact compensationWrite_sound _ _ _
  case setHum u => exact compensationWrite_sound _ _ _
  case setIntcfg c => exact opSetIntcfg_sound c

theorem nsteps_of_planOf {i : Instr} {p : BusOp} (h : planOf i = some p) : nsteps i = p.nsteps := by
  simp [nsteps, h]

theorem txnAt_of_planOf {i : Instr} {p : BusOp} (h : planOf i = some p) (a : DevAddr) (k : Nat) :
    txnAt i a k = p.frames[k]?.map (Frame.txn a) := by
  simp [txnAt, h]

/-- An operation with a transaction has a plan. -/
theorem planOf_of_lt_nsteps {i : Instr} {k : Nat} (h : k < nsteps i) :
    ∃ p, planOf i = some p ∧ k < p.nsteps := by
  cases hp : planOf i with
  | none => simp [nsteps, hp] at h
  | some p => exact ⟨p, rfl, nsteps_of_planOf hp ▸ h⟩

/-- The operations without a plan are the three that issue no transaction (R38, R125). -/
theorem planOf_cases (i : Instr) :
    (∃ p, planOf i = some p) ∨ (∃ a, i = .init a) ∨ i = .release ∨ ∃ v, i = .eco2ToAqi v := by
  cases i <;> simp [planOf]

/-- The frame at the last index is the last frame. -/
theorem BusOp.getLast?_frames {p : BusOp} {k : Nat} {f : Frame} (hf : p.frames[k]? = some f)
    (hk : p.nsteps ≤ k + 1) : p.frames.getLast? = some f := by
  obtain ⟨hlt, _⟩ := List.getElem?_eq_some_iff.mp hf
  have hlast : p.frames.length - 1 = k := by
    have : p.frames.length ≤ k + 1 := hk
    omega
  rw [List.getLast?_eq_getElem?, hlast, hf]

/-! ## What is recorded of an answer -/

/-- A transaction of a sound plan reads at most four bytes. -/
theorem BusOp.Sound.txn_read_le {p : BusOp} {f : Frame} {a b : DevAddr} {wb : List Byte} {n : Nat}
    (hs : p.Sound) (hf : f ∈ p.frames) (h : f.txn a = .wr b wb n) : n ≤ 4 := by
  cases f with
  | w reg payload => cases h
  | r reg m =>
    cases h
    exact hs.read_le reg n hf

/-- The bytes kept in `S.rx` are at most four (R27 (d)). -/
theorem Received.length_le {q : Seq} {x : Txn} {bs : List Byte} {e : Event} (hr : Received q x bs e)
    (h : q.rx.length ≤ 4) : bs.length ≤ 4 := by
  obtain ⟨a, wb, -, rfl, -⟩ | ⟨a, wb, n, -, hlen, -⟩ := hr
  · exact h
  · omega

/-- A successful answer to a read of at most four bytes, or to a write, closes it (R21). -/
theorem Received.closes {q : Seq} {x : Txn} {bs : List Byte} {e : Event} (hr : Received q x bs e)
    (hn : ∀ a wb n, x = .wr a wb n → n ≤ 4) : e.closes x = true := by
  obtain ⟨a, wb, rfl, -, rfl⟩ | ⟨a, wb, n, rfl, hlen, rfl⟩ := hr
  · rfl
  · have := hn a wb n rfl
    simp only [Event.closes, beq_iff_eq]
    omega

/-- A successful answer is recorded by an event of its own, never by an `Issue`. -/
theorem Received.ne_issue {q : Seq} {x : Txn} {bs : List Byte} {e : Event} (hr : Received q x bs e) (y : Txn) :
    e ≠ .issue y := by
  obtain ⟨a, wb, -, -, rfl⟩ | ⟨a, wb, n, -, -, rfl⟩ := hr <;> exact Event.noConfusion

/-- The result of an operation can be formed from the answer to its last transaction (R126). -/
theorem BusOp.Sound.finish_received {p : BusOp} {q : Seq} {f : Frame} {a : DevAddr} {bs : List Byte}
    {e : Event} (hs : p.Sound) (hf : p.frames.getLast? = some f) (hr : Received q (f.txn a) bs e) :
    ∃ r, p.finish bs = some r := by
  cases f with
  | w reg payload => exact hs.finish_write reg payload hf bs
  | r reg n =>
    obtain ⟨b, wb, hx, -, -⟩ | ⟨b, wb, m, hx, hlen, -⟩ := hr
    · cases hx
    · cases hx
      have := hs.read_le reg n (List.mem_of_getLast? hf)
      exact hs.finish_read reg n hf bs (by omega)

/-- COMPLETE on an answer of the oracle ends the operation with the failure, or records the success and goes
on (R123). -/
theorem completeTxn_answer (p : BusOp) (s : State) (x : Txn) (d : Draw) :
    (∃ e, d = .failure e ∧ completeTxn p s (x.answer d) = .next (s.abnormalEnd (.bus e))) ∨
    (∃ bs e, Received s.seq x bs e ∧
      completeTxn p s (x.answer d) = afterSuccess p (s.withSeq ((s.seq.receive bs).close e))) := by
  obtain ⟨e, hd, ha⟩ | ⟨a, wb, rfl, ha⟩ | ⟨a, wb, n, bs, rfl, ha, hlen⟩ := answer_cases x d <;> rw [ha]
  · exact .inl ⟨e, hd, rfl⟩
  · exact .inr ⟨s.seq.rx, .doneOk, .inl ⟨a, wb, rfl, rfl, rfl⟩, rfl⟩
  · exact .inr ⟨bs, .doneBytes bs, .inr ⟨a, wb, n, rfl, hlen, rfl⟩, rfl⟩

/-! ## What the three control states do -/

/-- `INIT` is an operation with no transaction (R77). -/
theorem exec_init (a : DevAddr) (s : State) :
    exec (.init a) s = runNow .absent (fun s => (s.withSeq (s.seq.takeHandle a)).respond (.ok .unit)) s := rfl

/-- `RELEASE` is an operation with no transaction (R78). -/
theorem exec_release (s : State) :
    exec .release s = runNow .needed (fun s => (s.withSeq s.seq.dropHandle).respond (.ok .unit)) s := rfl

/-- `ECO2_TO_AQI` is an operation with no transaction (R106). -/
theorem exec_eco2ToAqi (v : Nat) (s : State) : exec (.eco2ToAqi v) s = runNow .any (classify v) s := rfl

/-- In `IDLE` an operation with transactions is accepted or refused (R121). -/
theorem runBus_idle (p : BusOp) {s : State} (hb : s.seq.busy = false) : runBus p s = .next (acceptBus p s) := by
  simp [runBus, s.seq.ctrl_of_not_busy hb]

/-- In `READY` an operation with transactions issues the next one (R122). -/
theorem runBus_ready {p : BusOp} {s : State} (hb : s.seq.busy = true) (hn : s.seq.inflight = none)
    (hl : s.seq.latched = p.word) : runBus p s = issueTxn p s := by
  simp [runBus, s.seq.ctrl_of_ready hb hn, hl]

/-- In `WAIT` an operation with transactions waits for the answer (R123). -/
theorem runBus_wait {p : BusOp} {s : State} {x : Txn} (hb : s.seq.busy = true) (hx : s.seq.inflight = some x)
    (hl : s.seq.latched = p.word) : runBus p s = awaitAnswer p x s := by
  simp [runBus, s.seq.ctrl_of_wait x hb hx, hl]

/-- An operation issues the transactions of its plan, or is done at its ACCEPT (R121). -/
theorem exec_runBus_or_runNow (i : Instr) :
    (∃ p, ∀ s, exec i s = runBus p s) ∨ (∃ o e, ∀ s, exec i s = runNow o e s) := by
  obtain ⟨p, hp⟩ | ⟨a, rfl⟩ | rfl | ⟨v, rfl⟩ := planOf_cases i
  · exact .inl ⟨p, exec_of_planOf hp⟩
  · exact .inr ⟨_, _, exec_init a⟩
  · exact .inr ⟨_, _, exec_release⟩
  · exact .inr ⟨_, _, exec_eco2ToAqi v⟩

/-- In `IDLE` an operation with no transaction is refused for the handle, or takes its effect (R121). -/
theorem runNow_idle (o : Ownership) (e : State → State) {s : State} (hb : s.seq.busy = false) :
    (∃ r, o.refusal s.seq.owned = some r ∧ runNow o e s = .next (s.abnormalEnd (.refuse r))) ∨
    (o.refusal s.seq.owned = none ∧ runNow o e s = .next (e s)) := by
  cases ho : o.refusal s.seq.owned with
  | none => exact .inr ⟨rfl, by simp [runNow, s.seq.ctrl_of_not_busy hb, ho]⟩
  | some r => exact .inl ⟨r, rfl, by simp [runNow, s.seq.ctrl_of_not_busy hb, ho]⟩

/-- A busy block whose host has no CANCEL listed takes a step of the operation in progress. -/
theorem stepWith_busy_of_noCancel (v : ExecVariant) {s : State} (hb : s.seq.busy = true)
    (hc : NoCancel s.host) : ∃ ms, stepWith v s = advance { s with host := ms } := by
  obtain ⟨rest, _, hh, _⟩ | ⟨ms, _, _, he⟩ := stepBusy_cases v s
  · exact absurd (by simp [hh]) hc
  · exact ⟨ms, by simp [stepWith, hb, he]⟩

/-- Everything a step of the machine can do to `S`: a CANCEL; a move of an operation, which is the one latched
when the block is busy; or nothing. -/
theorem step_seq {v : ExecVariant} {s t : State} (h : stepWith v s = .next t) :
    t.seq = s.seq.cancel ∧ s.seq.busy = true ∨
    (∃ i rs, decode (encode i) = .ok i ∧ OpMove i s.seq t.seq rs) ∨
    t.seq = s.seq := by
  obtain ⟨rest, _, hb, _, rfl⟩ | ⟨ms, i, _, _, _, hd, he⟩ | ⟨cw, rest, i, _, _, hd, he⟩ |
    ⟨cw, rest, e, _, _, _, rfl⟩ | ⟨ms, _, _, rfl⟩ := step_cases h
  · exact .inl ⟨rfl, hb⟩
  · obtain ⟨rs, hm, -⟩ := exec_move he
    exact .inr (.inl ⟨i, rs, by rwa [encode_of_decode hd], hm⟩)
  · obtain ⟨rs, hm, -⟩ := exec_move he
    exact .inr (.inl ⟨i, rs, by rwa [encode_of_decode hd], hm⟩)
  · exact .inr (.inr rfl)
  · exact .inr (.inr rfl)

/-- CANCEL with nothing outstanding (R124). -/
theorem Seq.cancel_of_none {q : Seq} (h : q.inflight = none) : q.cancel = q.endOp := by
  simp [Seq.cancel, Seq.endOp, h]

/-- CANCEL of an outstanding transaction (R124). -/
theorem Seq.cancel_of_some {q : Seq} {x : Txn} (h : q.inflight = some x) :
    q.cancel = (q.close .abandoned).endOp := by
  simp only [Seq.cancel, h]

/-! ## The invariants of R27 -/

/-- In `IDLE` nothing is outstanding (R27 (b)). -/
theorem Seq.Inv.inflight_none {q : Seq} (h : q.Inv) (hb : q.busy = false) : q.inflight = none := by
  by_contra hn
  simpa [hb] using h.inflight_busy hn

/-- The operation in progress, its plan, and the transaction that `S.step` names (R27 (c)). -/
theorem Seq.Inv.plan {q : Seq} (h : q.Inv) (hb : q.busy = true) :
    ∃ i p f, decode q.latched = .ok i ∧ q.latched = encode i ∧ planOf i = some p ∧
      p.frames[q.stepIdx.toNat]? = some f := by
  obtain ⟨i, hd, hk⟩ := h.step_lt hb
  obtain ⟨p, hp, hlt⟩ := planOf_of_lt_nsteps hk
  exact ⟨i, p, _, hd, (encode_of_decode hd).symm, hp, List.getElem?_eq_getElem hlt⟩

/-- The outstanding transaction is the frame of the plan that `S.step` names. -/
theorem Seq.Inv.outstanding {q : Seq} {x : Txn} {i : Instr} {p : BusOp} (h : q.Inv)
    (hx : q.inflight = some x) (hd : decode q.latched = .ok i) (hp : planOf i = some p) :
    ∃ a f, p.frames[q.stepIdx.toNat]? = some f ∧ x = f.txn a := by
  obtain ⟨j, a, hd', -, ht⟩ := h.inflight_planned x hx
  obtain rfl : i = j := ok_inj (hd.symm.trans hd')
  rw [txnAt_of_planOf hp, Option.map_eq_some_iff] at ht
  obtain ⟨f, hf, rfl⟩ := ht
  exact ⟨a, f, hf, rfl⟩

/-- The outstanding transaction reads at most four bytes. -/
theorem Seq.Inv.outstanding_read_le {q : Seq} (h : q.Inv) {x : Txn} (hx : q.inflight = some x) (b : DevAddr)
    (wb : List Byte) (n : Nat) (hw : x = .wr b wb n) : n ≤ 4 := by
  have hb : q.busy = true := h.inflight_busy (by simp [hx])
  obtain ⟨i, p, -, hd, -, hp, -⟩ := h.plan hb
  obtain ⟨a, f, hf, rfl⟩ := h.outstanding hx hd hp
  exact (sound_of_planOf hp).txn_read_le (List.mem_of_getElem? hf) hw

/-- The invariants of an `IDLE` block. -/
theorem Seq.inv_of_idle {q : Seq} (hb : q.busy = false) (hn : q.inflight = none) (hr : q.rx.length ≤ 4)
    (ha : q.owned = true → ∃ a, q.devAddr = some a) : q.Inv where
  busy_owned h := by simp [hb] at h
  inflight_busy h := absurd hn h
  step_lt h := by simp [hb] at h
  rx_len := hr
  owned_addr := ha
  inflight_planned t ht := by simp [hn] at ht

/-- The invariants of a block in `READY`. -/
theorem Seq.inv_of_ready {q : Seq} {i : Instr} (ho : q.owned = true) (hn : q.inflight = none)
    (hd : decode q.latched = .ok i) (hk : q.stepIdx.toNat < nsteps i) (hr : q.rx.length ≤ 4)
    (ha : ∃ a, q.devAddr = some a) : q.Inv where
  busy_owned _ := ho
  inflight_busy h := absurd hn h
  step_lt _ := ⟨i, hd, hk⟩
  rx_len := hr
  owned_addr _ := ha
  inflight_planned t ht := by simp [hn] at ht

/-- ISSUE of the planned transaction keeps the invariants (R122). -/
theorem Seq.Inv.issue {q : Seq} {i : Instr} {a : DevAddr} {x : Txn} (h : q.Inv) (hb : q.busy = true)
    (hd : decode q.latched = .ok i) (ha : q.devAddr = some a) (hx : txnAt i a q.stepIdx.toNat = some x) :
    (q.issue x).Inv where
  busy_owned := h.busy_owned
  inflight_busy _ := hb
  step_lt := h.step_lt
  rx_len := h.rx_len
  owned_addr := h.owned_addr
  inflight_planned t ht := by
    obtain rfl : x = t := by simpa using ht
    exact ⟨i, a, hd, ha, hx⟩

/-- `S.step` has one bit, and no plan has a third transaction: it does not wrap (R18). -/
theorem stepIdx_succ_toNat {k : BitVec 1} {p : BusOp} (hs : p.Sound) (hk : k.toNat + 1 < p.nsteps) :
    (k + 1).toNat = k.toNat + 1 := by
  have hle := hs.nsteps_le
  have h1 : (1 : BitVec 1).toNat = 1 := rfl
  rw [BitVec.toNat_add, h1]
  omega

/-- CANCEL keeps the invariants (R124). -/
theorem Seq.Inv.cancel {q : Seq} (h : q.Inv) : q.cancel.Inv := by
  cases hx : q.inflight with
  | none =>
    rw [Seq.cancel_of_none hx]
    exact Seq.inv_of_idle rfl hx h.rx_len h.owned_addr
  | some x =>
    rw [Seq.cancel_of_some hx]
    exact Seq.inv_of_idle rfl rfl h.rx_len h.owned_addr

/-- Every move of a legal operation keeps the invariants. -/
theorem OpMove.keeps_inv {i : Instr} {q q' : Seq} {rs : List Response} (hm : OpMove i q q' rs)
    (hd : decode (encode i) = .ok i) (h : q.Inv) : q'.Inv := by
  cases hm with
  | waits => exact h
  | responds r hb => exact h
  | takes a hi hb => exact Seq.inv_of_idle hb (h.inflight_none hb) h.rx_len fun _ => ⟨a, rfl⟩
  | drops hi hb => exact Seq.inv_of_idle hb (h.inflight_none hb) h.rx_len (by simp)
  | latches p hp hb ho hr =>
    refine Seq.inv_of_ready ho rfl (by simpa using hd) ?_ (by simp) (h.owned_addr ho)
    simpa [nsteps_of_planOf hp] using (sound_of_planOf hp).nsteps_pos
  | issues p a f hp hb hn hl ha hf =>
    exact h.issue hb (by rwa [hl]) ha (by simp [txnAt_of_planOf hp, hf])
  | goesOn p x bs e hp hb hx hl hr hk =>
    have ho := h.busy_owned hb
    refine Seq.inv_of_ready (i := i) ho rfl (by simpa [hl] using hd) ?_ (hr.length_le h.rx_len) (h.owned_addr ho)
    rw [nsteps_of_planOf hp]
    exact (stepIdx_succ_toNat (sound_of_planOf hp) hk).trans_lt hk
  | ends p x bs e r hp hb hx hl hr hk hf =>
    exact Seq.inv_of_idle rfl rfl (hr.length_le h.rx_len) h.owned_addr
  | fails p x e hp hb hx hl => exact Seq.inv_of_idle rfl rfl h.rx_len h.owned_addr

/-- A step that answers a next state keeps the invariants. -/
theorem step_keeps_inv {v : ExecVariant} {s t : State} (h : s.seq.Inv) (hs : stepWith v s = .next t) :
    t.seq.Inv := by
  obtain ⟨he, -⟩ | ⟨i, rs, hd, hm⟩ | he := step_seq hs
  · exact he ▸ h.cancel
  · exact hm.keeps_inv hd h
  · exact he ▸ h

/-! ## No fault is reached -/

/-- In `IDLE` every operation answers a next state. -/
theorem exec_idle_next (i : Instr) {s : State} (hb : s.seq.busy = false) : ∃ t, exec i s = .next t := by
  obtain ⟨p, he⟩ | ⟨o, e, he⟩ := exec_runBus_or_runNow i
  · exact ⟨_, (he s).trans (runBus_idle p hb)⟩
  · obtain ⟨r, -, h⟩ | ⟨-, h⟩ := runNow_idle o e hb
    · exact ⟨_, (he s).trans h⟩
    · exact ⟨_, (he s).trans h⟩

/-- COMPLETE of the planned transaction answers a next state: `S.rx` is never too short (R126). -/
theorem completeTxn_progress {p : BusOp} {s : State} {f : Frame} (a : DevAddr) (d : Draw) (hs : p.Sound)
    (hf : p.frames[s.seq.stepIdx.toNat]? = some f) : ∃ t, completeTxn p s ((f.txn a).answer d) = .next t := by
  obtain ⟨e, -, he⟩ | ⟨bs, e, hr, he⟩ := completeTxn_answer p s (f.txn a) d
  · exact ⟨_, he⟩
  · rw [he]
    by_cases hk : s.seq.stepIdx.toNat + 1 < p.nsteps
    · exact ⟨_, by simp [afterSuccess, hk]; rfl⟩
    · obtain ⟨r, hfin⟩ := hs.finish_received (BusOp.getLast?_frames hf (by omega)) hr
      exact ⟨_, by simp [afterSuccess, hk, hfin]; rfl⟩

/-- The transport's move on the planned transaction answers a next state. -/
theorem awaitAnswer_progress {p : BusOp} {s : State} {f : Frame} (a : DevAddr) (hs : p.Sound)
    (hf : p.frames[s.seq.stepIdx.toNat]? = some f) : ∃ t, awaitAnswer p (f.txn a) s = .next t := by
  unfold awaitAnswer
  split
  · exact ⟨_, rfl⟩
  · exact ⟨_, rfl⟩
  · exact completeTxn_progress a _ hs hf

/-- From the invariants, a step of the operation in progress answers a next state. -/
theorem advance_progress {s : State} (h : s.seq.Inv) (hb : s.seq.busy = true) : ∃ t, advance s = .next t := by
  obtain ⟨i, p, f, hd, hl, hp, hf⟩ := h.plan hb
  rw [advance_of_decode hd, exec_of_planOf hp]
  have hl : s.seq.latched = p.word := hl.trans (word_of_planOf hp).symm
  cases hx : s.seq.inflight with
  | none =>
    obtain ⟨a, ha⟩ := h.owned_addr (h.busy_owned hb)
    rw [runBus_ready hb hx hl]
    exact ⟨_, by simp only [issueTxn, ha, hf]; rfl⟩
  | some x =>
    obtain ⟨a, g, hg, rfl⟩ := h.outstanding hx hd hp
    rw [runBus_wait hb hx hl]
    exact awaitAnswer_progress a (sound_of_planOf hp) hg

/-- An `IDLE` block always takes a step. -/
theorem stepIdle_next {s : State} (hb : s.seq.busy = false) : ∃ t, stepIdle s = .next t := by
  obtain ⟨cw, rest, -, he⟩ | ⟨ms, -, he⟩ := stepIdle_cases s
  · rw [he]
    cases hd : decode cw with
    | error e => exact ⟨_, acceptWord_of_illegal hd _⟩
    | ok i =>
      rw [acceptWord_of_decode hd]
      exact exec_idle_next i hb
  · exact ⟨_, he⟩

/-- From the invariants, every step answers a next state. -/
theorem step_progress (v : ExecVariant) {s : State} (h : s.seq.Inv) : ∃ t, stepWith v s = .next t := by
  cases hb : s.seq.busy with
  | false => simpa [stepWith, hb] using stepIdle_next hb
  | true =>
    simp only [stepWith, hb, if_true]
    obtain ⟨rest, -, -, he⟩ | ⟨ms, -, -, he⟩ := stepBusy_cases v s
    · exact ⟨_, he⟩
    · rw [he]
      exact advance_progress h hb

/-- Settles O34: R27 gives progress (`step_progress`), and every kind of step keeps it (`step_keeps_inv`). -/
theorem stepKeepsInvariant : Obligations.StepKeepsInvariant := by
  intro v s h
  obtain ⟨t, hs⟩ := step_progress v h
  exact ⟨t, hs, step_keeps_inv h hs⟩

/-! ## The trace (R21) -/

/-- The scan of a trace goes on from what is open after its first part. -/
theorem scanTrace_append {o r : Option Txn} {es es' : List Event} (h : scanTrace o es = some r) :
    scanTrace o (es ++ es') = scanTrace r es' := by
  fun_induction scanTrace o es with
  | case1 o =>
    obtain rfl : o = r := by simpa using h
    rfl
  | case2 t es ih => exact ih h
  | case7 t e es hc ih => simpa [scanTrace, hc] using ih h
  | _ => cases h

/-- An `Issue` with nothing outstanding keeps the trace well formed. -/
theorem Seq.TraceOk.issue {q : Seq} (h : q.TraceOk) (hn : q.inflight = none) (x : Txn) :
    (q.issue x).TraceOk := by
  have h : scanTrace none q.trace = some q.inflight := h
  simp [Seq.TraceOk, scanTrace_append h, hn, scanTrace]

/-- An event that fits the outstanding transaction keeps the trace well formed. -/
theorem Seq.TraceOk.close {q : Seq} {x : Txn} {e : Event} (h : q.TraceOk) (hx : q.inflight = some x)
    (hc : e.closes x = true) : (q.close e).TraceOk := by
  have h : scanTrace none q.trace = some q.inflight := h
  simp [Seq.TraceOk, scanTrace_append h, hx, scanTrace, hc]

/-- CANCEL keeps the trace well formed: it abandons exactly what is outstanding (R124). -/
theorem Seq.TraceOk.cancel {q : Seq} (h : q.TraceOk) : q.cancel.TraceOk := by
  cases hx : q.inflight with
  | none => rw [Seq.cancel_of_none hx]; exact h
  | some x => rw [Seq.cancel_of_some hx]; exact h.close hx rfl

/-- Every move of an operation keeps the trace well formed. -/
theorem OpMove.keeps_traceOk {i : Instr} {q q' : Seq} {rs : List Response} (hm : OpMove i q q' rs)
    (hi : q.Inv) (h : q.TraceOk) : q'.TraceOk := by
  cases hm with
  | waits => exact h
  | responds r hb => exact h
  | takes a hi hb => exact h
  | drops hi hb => exact h
  | latches p hp hb ho hr => simpa [Seq.TraceOk, hi.inflight_none hb] using h
  | issues p a f hp hb hn hl ha hf => exact h.issue hn _
  | goesOn p x bs e hp hb hx hl hr hk =>
    exact Seq.TraceOk.close (q := q.receive bs) h hx (hr.closes (hi.outstanding_read_le hx))
  | ends p x bs e r hp hb hx hl hr hk hf =>
    exact Seq.TraceOk.close (q := q.receive bs) h hx (hr.closes (hi.outstanding_read_le hx))
  | fails p x e hp hb hx hl => exact h.close hx rfl

/-- Settles O35: each move closes only the outstanding transaction, with an event that fits it, and opens one
only when there is none. -/
theorem traceStaysBracketed : Obligations.TraceStaysBracketed := by
  intro v s t hi h hs
  obtain ⟨he, -⟩ | ⟨i, rs, -, hm⟩ | he := step_seq hs
  · rw [he]; exact h.cancel
  · exact hm.keeps_traceOk hi h
  · rw [he]; exact h

/-- What one step may append to the trace, and how it moves `S.inflight` (R21, R48). -/
def TraceStep (q q' : Seq) : Prop :=
  q'.trace = q.trace ∨
  (∃ x, q'.trace = q.trace ++ [.issue x] ∧ q.inflight = none ∧ q'.inflight = some x) ∨
  (∃ e, (∀ x, e ≠ Event.issue x) ∧ q'.trace = q.trace ++ [e] ∧ q.inflight ≠ none ∧ q'.inflight = none)

/-- The outstanding transaction is closed, by an event other than an `Issue`. -/
theorem traceStep_of_close {q q' : Seq} {x : Txn} {e : Event} (hx : q.inflight = some x)
    (he : ∀ y, e ≠ Event.issue y) (ht : q'.trace = q.trace ++ [e]) (hn : q'.inflight = none) :
    TraceStep q q' :=
  .inr (.inr ⟨e, he, ht, by simp [hx], hn⟩)

theorem Seq.traceStep_cancel (q : Seq) : TraceStep q q.cancel := by
  cases hx : q.inflight with
  | none => rw [Seq.cancel_of_none hx]; exact .inl rfl
  | some x => rw [Seq.cancel_of_some hx]; exact traceStep_of_close hx (by simp) rfl rfl

theorem OpMove.traceStep {i : Instr} {q q' : Seq} {rs : List Response} (hm : OpMove i q q' rs) :
    TraceStep q q' := by
  cases hm with
  | waits => exact .inl rfl
  | responds r hb => exact .inl rfl
  | takes a hi hb => exact .inl rfl
  | drops hi hb => exact .inl rfl
  | latches p hp hb ho hr => exact .inl rfl
  | issues p a f hp hb hn hl ha hf => exact .inr (.inl ⟨f.txn a, rfl, hn, rfl⟩)
  | goesOn p x bs e hp hb hx hl hr hk => exact traceStep_of_close hx hr.ne_issue rfl rfl
  | ends p x bs e r hp hb hx hl hr hk hf => exact traceStep_of_close hx hr.ne_issue rfl rfl
  | fails p x e hp hb hx hl => exact traceStep_of_close hx (by simp) rfl rfl

/-- Settles O37: case by case of `step_seq`, with no hypothesis on the state. -/
theorem traceGrowsInOrder : Obligations.TraceGrowsInOrder := by
  intro v s t hs
  obtain ⟨he, -⟩ | ⟨i, rs, -, hm⟩ | he := step_seq hs
  · rw [he]; exact s.seq.traceStep_cancel
  · exact hm.traceStep
  · exact .inl (by rw [he])

/-! ## The dead fields of an `IDLE` block (R24, R36) -/

theorem Seq.SameLive.refl (q : Seq) : Seq.SameLive q q := ⟨rfl, rfl, rfl, rfl, rfl, fun _ => rfl⟩

theorem State.Alike.refl (s : State) : s.Alike s := ⟨.refl _, rfl, rfl, rfl⟩

/-- Two alike states with an operation in progress are one state. -/
theorem State.Alike.eq_of_busy {s t : State} (h : s.Alike t) (hb : s.seq.busy = true) : s = t := by
  obtain ⟨hq, hh, ht, hr⟩ := h
  have hq := hq.live hb
  cases s
  cases t
  simp_all

theorem State.Alike.withHost {s t : State} (h : s.Alike t) (ms : List HostMove) :
    State.Alike { s with host := ms } { t with host := ms } :=
  ⟨h.seq, rfl, h.transport, h.responses⟩

theorem State.Alike.respond {s t : State} (h : s.Alike t) (r : Response) :
    (s.respond r).Alike (t.respond r) :=
  ⟨h.seq, h.host, h.transport, by simp [h.responses]⟩

/-- A refusal leaves alike states alike: it changes no field of `S` (R141). -/
theorem State.Alike.refuse {s t : State} (h : s.Alike t) (r : Reason) :
    (s.abnormalEnd (.refuse r)).Alike (t.abnormalEnd (.refuse r)) :=
  h.respond (.refused r)

theorem State.Alike.withSeq {s t : State} (h : s.Alike t) {p q : Seq} (hq : p.SameLive q) :
    (s.withSeq p).Alike (t.withSeq q) :=
  ⟨hq, h.host, h.transport, h.responses⟩

theorem Seq.SameLive.takeHandle {p q : Seq} (h : p.SameLive q) (a : DevAddr) :
    (p.takeHandle a).SameLive (q.takeHandle a) :=
  ⟨rfl, rfl, h.busy, h.inflight, h.trace, fun hb => by rw [h.live hb]⟩

theorem Seq.SameLive.dropHandle {p q : Seq} (h : p.SameLive q) : p.dropHandle.SameLive q.dropHandle :=
  ⟨rfl, rfl, h.busy, h.inflight, h.trace, fun hb => by rw [h.live hb]⟩

/-- ACCEPT overwrites every dead field, so what it latches is the same (R121). -/
theorem Seq.SameLive.latch {p q : Seq} (h : p.SameLive q) (cw : CmdWord) : p.latch cw = q.latch cw := by
  simp [Seq.latch, h.owned, h.devAddr, h.trace]

/-- ACCEPT of an operation with transactions leaves alike states alike. -/
theorem acceptBus_alike (p : BusOp) {s t : State} (h : s.Alike t) : (acceptBus p s).Alike (acceptBus p t) := by
  unfold acceptBus
  rw [h.seq.owned]
  split
  · exact h.refuse _
  · split
    · exact h.withSeq (h.seq.latch p.word ▸ .refl _)
    · exact h.refuse _

/-- Two outcomes nobody outside can tell apart: alike next states, or the same fault. -/
def AlikeOutcomes (o o' : Outcome State Fault Refusal) : Prop :=
  (∃ s t, o = .next s ∧ o' = .next t ∧ s.Alike t) ∨ (∃ r, o = .fault r ∧ o' = .fault r)

theorem AlikeOutcomes.next {s t : State} (h : s.Alike t) : AlikeOutcomes (.next s) (.next t) :=
  .inl ⟨s, t, rfl, rfl, h⟩

theorem AlikeOutcomes.refl {o : Outcome State Fault Refusal} (h : ∀ r, o ≠ .refused r) : AlikeOutcomes o o := by
  cases o with
  | next s => exact .next (.refl s)
  | fault r => exact .inr ⟨r, rfl, rfl⟩
  | refused r => exact absurd rfl (h r)

/-- ACCEPT of an operation with no transaction leaves alike states alike when its effect does. -/
theorem runNow_alike (o : Ownership) (e : State → State) {s t : State} (h : s.Alike t)
    (hb : s.seq.busy = false) (he : (e s).Alike (e t)) : AlikeOutcomes (runNow o e s) (runNow o e t) := by
  have hs := s.seq.ctrl_of_not_busy hb
  have ht := t.seq.ctrl_of_not_busy (h.seq.busy ▸ hb)
  simp only [runNow, hs, ht, h.seq.owned]
  split
  · exact .next (h.refuse _)
  · exact .next he

/-- `ECO2_TO_AQI` reads nothing of the state, so it leaves alike states alike. -/
theorem classify_alike (v : Nat) {s t : State} (h : s.Alike t) : (classify v s).Alike (classify v t) := by
  unfold classify
  split
  · exact h.respond _
  · exact h.respond (.convError _)

/-- ACCEPT of any operation leaves alike states alike. -/
theorem exec_idle_alike (i : Instr) {s t : State} (h : s.Alike t) (hb : s.seq.busy = false) :
    AlikeOutcomes (exec i s) (exec i t) := by
  obtain ⟨p, hp⟩ | ⟨a, rfl⟩ | rfl | ⟨v, rfl⟩ := planOf_cases i
  · rw [exec_of_planOf hp, exec_of_planOf hp, runBus_idle p hb, runBus_idle p (h.seq.busy ▸ hb)]
    exact .next (acceptBus_alike p h)
  · rw [exec_init, exec_init]
    exact runNow_alike _ _ h hb ((h.withSeq (h.seq.takeHandle a)).respond _)
  · rw [exec_release, exec_release]
    exact runNow_alike _ _ h hb ((h.withSeq h.seq.dropHandle).respond _)
  · rw [exec_eco2ToAqi, exec_eco2ToAqi]
    exact runNow_alike _ _ h hb (classify_alike v h)

/-- A step of an `IDLE` block leaves alike states alike. -/
theorem stepIdle_alike {s t : State} (h : s.Alike t) (hb : s.seq.busy = false) :
    AlikeOutcomes (stepIdle s) (stepIdle t) := by
  unfold stepIdle
  rw [← h.host]
  split
  next cw rest _ =>
    unfold acceptWord
    split
    · exact .next ((h.withHost rest).refuse _)
    · exact exec_idle_alike _ (h.withHost rest) hb
  next rest _ => exact .next (h.withHost rest)
  next rest _ => exact .next (h.withHost rest)
  next => exact .next h

/-! ## No step is refused by the model -/

theorem afterSuccess_ne_refused (p : BusOp) (s : State) (r : Refusal) : afterSuccess p s ≠ .refused r := by
  unfold afterSuccess
  split
  · simp
  · split <;> simp

theorem completeTxn_ne_refused (p : BusOp) (s : State) (ans : Answer) (r : Refusal) :
    completeTxn p s ans ≠ .refused r := by
  cases ans with
  | err e => simp [completeTxn]
  | ok => exact afterSuccess_ne_refused p _ r
  | okBytes bs => exact afterSuccess_ne_refused p _ r

theorem awaitAnswer_ne_refused (p : BusOp) (x : Txn) (s : State) (r : Refusal) :
    awaitAnswer p x s ≠ .refused r := by
  unfold awaitAnswer
  split
  · simp
  · simp
  · exact completeTxn_ne_refused p _ _ r

theorem issueTxn_ne_refused (p : BusOp) (s : State) (r : Refusal) : issueTxn p s ≠ .refused r := by
  unfold issueTxn
  split
  · simp
  · split <;> simp

theorem runBus_ne_refused (p : BusOp) (s : State) (r : Refusal) : runBus p s ≠ .refused r := by
  unfold runBus
  split
  · simp
  · split
    · exact issueTxn_ne_refused p s r
    · simp
  · split
    · exact awaitAnswer_ne_refused p _ s r
    · simp

theorem runNow_ne_refused (o : Ownership) (e : State → State) (s : State) (r : Refusal) :
    runNow o e s ≠ .refused r := by
  unfold runNow
  split
  · split <;> simp
  · simp
  · simp

/-- Every operation has a meaning. -/
theorem exec_ne_refused (i : Instr) (s : State) (r : Refusal) : exec i s ≠ .refused r := by
  obtain ⟨p, he⟩ | ⟨o, e, he⟩ := exec_runBus_or_runNow i <;> rw [he]
  · exact runBus_ne_refused p s r
  · exact runNow_ne_refused o e s r

theorem advance_ne_refused (s : State) (r : Refusal) : advance s ≠ .refused r := by
  unfold advance
  split
  · simp
  · exact exec_ne_refused _ s r

theorem stepBusy_ne_refused (v : ExecVariant) (s : State) (r : Refusal) : stepBusy v s ≠ .refused r := by
  obtain ⟨rest, -, -, he⟩ | ⟨ms, -, -, he⟩ := stepBusy_cases v s <;> rw [he]
  · simp
  · exact advance_ne_refused _ r

/-! ## Alike states run alike -/

/-- One step leaves alike states alike: busy, they are one state; `IDLE`, the step does not read what differs. -/
theorem stepWith_alike (v : ExecVariant) {s t : State} (h : s.Alike t) :
    AlikeOutcomes (stepWith v s) (stepWith v t) := by
  cases hb : s.seq.busy with
  | true =>
    obtain rfl := h.eq_of_busy hb
    simpa [stepWith, hb] using AlikeOutcomes.refl (stepBusy_ne_refused v s)
  | false =>
    have hb' : t.seq.busy = false := h.seq.busy ▸ hb
    simpa [stepWith, hb, hb'] using stepIdle_alike h hb

theorem runWith_alike (v : ExecVariant) (n : Nat) {s t : State} (h : s.Alike t) :
    AlikeOutcomes (runWith v n s) (runWith v n t) := by
  induction n generalizing s t with
  | zero => exact .next h
  | succ n ih =>
    obtain ⟨s', t', hs, ht, h'⟩ | ⟨r, hs, ht⟩ := stepWith_alike v h
    · simpa [runWith, hs, ht] using ih h'
    · exact .inr ⟨r, by simp [runWith, hs], by simp [runWith, ht]⟩

/-- Settles O41: `State.Alike` is kept by every step (`stepWith_alike`), so by every run. -/
theorem nothingSurvivesAnOperation : Obligations.NothingSurvivesAnOperation := by
  intro v n s t h
  exact runWith_alike v n h

/-! ## The handle (R14, R15) -/

/-- Settles O12: the ownership check comes first, in the ACCEPT of `RELEASE` and of every plan. -/
theorem noHandleRefused : Obligations.NoHandleRefused := by
  intro i s hi hb ho
  show exec i s = .next (s.abnormalEnd (.refuse .notOwned))
  obtain ⟨p, hp⟩ | ⟨a, rfl⟩ | rfl | ⟨v, rfl⟩ := planOf_cases i
  · rw [exec_of_planOf hp, runBus_idle p hb]
    simp [acceptBus, Ownership.refusal, ho]
  · simp [needsHandle] at hi
  · simp [exec_release, runNow, s.seq.ctrl_of_not_busy hb, Ownership.refusal, ho]
  · simp [needsHandle] at hi

/-- Only `INIT` and `RELEASE` change the handle. -/
theorem OpMove.handle_eq {i : Instr} {q q' : Seq} {rs : List Response} (hm : OpMove i q q' rs)
    (hi : ∀ a, i ≠ .init a) (hr : i ≠ .release) : q'.owned = q.owned ∧ q'.devAddr = q.devAddr := by
  cases hm with
  | takes a h hb => exact absurd h (hi a)
  | drops h hb => exact absurd h hr
  | _ => exact ⟨rfl, rfl⟩

/-- A step of an operation delivers at most one response. -/
theorem OpMove.responses_cases {i : Instr} {q q' : Seq} {rs : List Response} (hm : OpMove i q q' rs) :
    rs = [] ∨ ∃ r, rs = [r] := by
  cases hm with
  | waits => exact .inl rfl
  | latches => exact .inl rfl
  | issues => exact .inl rfl
  | goesOn => exact .inl rfl
  | _ => exact .inr ⟨_, rfl⟩

/-- Settles O38: from `exec_move`, with the two lemmas above. -/
theorem onlyInitAndReleaseChangeHandle : Obligations.OnlyInitAndReleaseChangeHandle := by
  intro i s t h
  obtain ⟨rs, hm, hr, ht, hh⟩ := exec_move h
  refine ⟨hh, fun hi => hm.handle_eq ?_ ?_, ?_, ht⟩
  · rintro a rfl
    simp [usesBus] at hi
  · rintro rfl
    simp [usesBus] at hi
  · obtain rfl | ⟨r, rfl⟩ := hm.responses_cases
    · exact .inl (by simpa using hr)
    · exact .inr ⟨r, hr⟩

/-! ## The step index (R18) -/

/-- How `S.step` moves in one step: 0 at accept, up by 1 from a transaction to the next, else unchanged. -/
structure CountsStep (q q' : Seq) : Prop where
  accept : q.busy = false → q'.busy = true → q'.stepIdx = 0
  next : q.busy = true → q'.busy = true → q.inflight ≠ none → q'.inflight = none →
    q'.stepIdx.toNat = q.stepIdx.toNat + 1
  keep : q'.busy = false ∨ (q.busy = true ∧ (q.inflight = none ∨ q'.inflight ≠ none)) → q'.stepIdx = q.stepIdx

/-- A step that neither accepts an operation nor closes a transaction and stays busy, and leaves `S.step`. -/
theorem countsStep_of_stepIdx_eq {q q' : Seq} (hk : q'.stepIdx = q.stepIdx) (ha : q'.busy = true → q.busy = true)
    (hn : q'.busy = true → q'.inflight = none → q.inflight = none) : CountsStep q q' where
  accept hb hb' := absurd (ha hb') (by simp [hb])
  next _ hb' hx hx' := absurd (hn hb' hx') hx
  keep _ := hk

theorem CountsStep.refl (q : Seq) : CountsStep q q := countsStep_of_stepIdx_eq rfl id fun _ => id

/-- A step that ends the operation in progress leaves `S.step`. -/
theorem countsStep_of_idle {q q' : Seq} (hk : q'.stepIdx = q.stepIdx) (hb : q'.busy = false) : CountsStep q q' :=
  countsStep_of_stepIdx_eq hk (by simp [hb]) (by simp [hb])

theorem OpMove.countsStep {i : Instr} {q q' : Seq} {rs : List Response} (hm : OpMove i q q' rs) :
    CountsStep q q' := by
  cases hm with
  | waits => exact .refl q
  | responds r hb => exact .refl q
  | takes a hi hb => exact countsStep_of_idle rfl hb
  | drops hi hb => exact countsStep_of_idle rfl hb
  | latches p hp hb ho hr =>
    exact ⟨fun _ _ => rfl, fun hb' => by simp [hb] at hb', fun hk => by simp [hb] at hk⟩
  | issues p a f hp hb hn hl ha hf => exact countsStep_of_stepIdx_eq rfl id fun _ _ => hn
  | goesOn p x bs e hp hb hx hl hr hk =>
    exact ⟨fun hb' => by simp [hb] at hb', fun _ _ _ _ => stepIdx_succ_toNat (sound_of_planOf hp) hk,
      fun h => by simp [hb, hx] at h⟩
  | ends p x bs e r hp hb hx hl hr hk hf => exact countsStep_of_idle rfl rfl
  | fails p x e hp hb hx hl => exact countsStep_of_idle rfl rfl

theorem Seq.countsStep_cancel (q : Seq) : CountsStep q q.cancel := by
  cases hx : q.inflight with
  | none => rw [Seq.cancel_of_none hx]; exact countsStep_of_idle rfl rfl
  | some x => rw [Seq.cancel_of_some hx]; exact countsStep_of_idle rfl rfl

theorem step_countsStep {v : ExecVariant} {s t : State} (h : stepWith v s = .next t) :
    CountsStep s.seq t.seq := by
  obtain ⟨he, -⟩ | ⟨i, rs, -, hm⟩ | he := step_seq h
  · exact he ▸ s.seq.countsStep_cancel
  · exact hm.countsStep
  · exact he ▸ .refl _

/-- A success of the outstanding transaction, with another one to follow, puts the block in `READY` of that one
(R123). -/
theorem awaitAnswer_goesOn {p : BusOp} {s : State} {rest : List TransportMove} {b0 b1 b2 b3 : Byte} (x : Txn)
    (ht : s.transport = .answer (.success b0 b1 b2 b3) :: rest) (hk : s.seq.stepIdx.toNat + 1 < p.nsteps) :
    ∃ t bs e, awaitAnswer p x s = .next t ∧ t.seq = ((s.seq.receive bs).close e).nextTxn := by
  obtain ⟨e, he, -⟩ | ⟨bs, e, -, he⟩ :=
    completeTxn_answer p { s with transport := rest } x (.success b0 b1 b2 b3)
  · cases he
  · refine ⟨_, bs, e, ?_, State.withSeq_seq { s with transport := rest } _⟩
    simp only [awaitAnswer, ht, he]
    exact if_pos hk

/-- Settles O40: `CountsStep` holds of every step, and a success with a transaction to follow is closed by
`awaitAnswer_goesOn`. Neither needs the invariants: the counter cannot wrap because no plan is longer than two. -/
theorem stepIndexCountsTransactions : Obligations.StepIndexCountsTransactions := by
  intro v s _
  refine ⟨fun t h => ?_, fun i b0 b1 b2 b3 rest hb hn hd hk hc ht => ?_⟩
  · obtain ⟨haccept, hnext, hkeep⟩ := step_countsStep h
    exact ⟨haccept, hnext, hkeep⟩
  · obtain ⟨x, hx⟩ := Option.ne_none_iff_exists'.mp hn
    obtain ⟨p, hp, hk⟩ := planOf_of_lt_nsteps hk
    obtain ⟨ms, hstep⟩ := stepWith_busy_of_noCancel v hb hc
    have hl : s.seq.latched = p.word := (encode_of_decode hd).symm.trans (word_of_planOf hp).symm
    obtain ⟨t, bs, e, hawait, hq⟩ := awaitAnswer_goesOn (s := { s with host := ms }) x ht hk
    have hnext : stepWith v s = .next t := calc
      stepWith v s = advance { s with host := ms } := hstep
      _ = exec i { s with host := ms } := advance_of_decode hd
      _ = runBus p { s with host := ms } := exec_of_planOf hp _
      _ = awaitAnswer p x { s with host := ms } := runBus_wait hb hx hl
      _ = .next t := hawait
    exact ⟨t, hnext, by simpa [hq] using hb, by simp [hq],
      by simpa [hq] using stepIdx_succ_toNat (sound_of_planOf hp) hk⟩

/-! ## Reset (R26) -/

/-- Settles O7: the fields are read off `Seq.reset`, and `INIT` is run from it. -/
theorem resetState : Obligations.ResetState :=
  ⟨rfl, rfl, rfl, rfl, rfl, rfl, rfl, fun _ => rfl⟩

/-- Settles O8: at reset the block is `IDLE`, with no handle, no bytes and no trace. -/
theorem invariantsHoldAtReset : Obligations.InvariantsHoldAtReset :=
  ⟨Seq.inv_of_idle rfl rfl (Nat.zero_le 4) (by simp [State.reset, Seq.reset]), rfl⟩

end Sys2Proof.Machine
end

section
/-!
PROOFS. The transport and the device's registers (20_memory.md): the answers of the oracle, the register map, and
what a step may issue. The plans are read once, in `listedFrame_of_planOf`; the accesses of R38 and the marks of
R46 are then facts about a `ListedFrame`.
-/

namespace Sys2Proof.Machine

/-! ## The register map (R37) -/

theorem DevReg.mem_all (r : DevReg) : r ∈ DevReg.all := by cases r <;> decide

/-- The map of R37 ascends: each register ends before any later one begins. -/
theorem DevReg.all_ascending : DevReg.all.Pairwise fun r r' => r.addr.toNat + r.width ≤ r'.addr.toNat := by
  decide

/-- Two registers of the map share no byte. -/
def DevReg.Disjoint (r r' : DevReg) : Prop :=
  r.addr.toNat + r.width ≤ r'.addr.toNat ∨ r'.addr.toNat + r'.width ≤ r.addr.toNat

theorem DevReg.disjoint_symm : Std.Symm DevReg.Disjoint := ⟨fun _ _ => Or.symm⟩

theorem DevReg.disjoint_of_ne {r r' : DevReg} (h : r ≠ r') : r.Disjoint r' := by
  have := DevReg.disjoint_symm
  have hall : DevReg.all.Pairwise DevReg.Disjoint := DevReg.all_ascending.imp Or.inl
  exact hall.forall r.mem_all r'.mem_all h

/-- Settles O55: the map ascends without overlap, so two of its registers are disjoint whichever comes first. -/
theorem registerMapMatchesTable : Obligations.RegisterMapMatchesTable :=
  ⟨rfl, DevReg.mem_all, fun _ _ => DevReg.disjoint_of_ne⟩

/-! ## The answers of the oracle (R29 to R31) -/

/-- The draw that answers a read with `bs`: at most four bytes, padded with 0. -/
def Draw.ofBytes (bs : List Byte) : Draw :=
  .success (bs.getD 0 0) (bs.getD 1 0) (bs.getD 2 0) (bs.getD 3 0)

theorem answer_ofBytes (a : DevAddr) (wbytes : List Byte) {bs : List Byte} (h : bs.length ≤ 4) :
    (Txn.wr a wbytes bs.length).answer (.ofBytes bs) = .okBytes bs := by
  match bs, h with
  | [], _ => rfl
  | [_], _ => rfl
  | [_, _], _ => rfl
  | [_, _, _], _ => rfl
  | [_, _, _, _], _ => rfl

theorem answer_write_iff (a : DevAddr) (bytes : List Byte) (ans : Answer) :
    (∃ d, (Txn.w a bytes).answer d = ans) ↔ ans = .ok ∨ ∃ e, ans = .err e := by
  constructor
  · rintro ⟨d, rfl⟩
    obtain ⟨e, -, h⟩ | ⟨_, _, -, h⟩ | ⟨_, _, _, _, hx, -⟩ := answer_cases (.w a bytes) d
    · exact .inr ⟨e, h⟩
    · exact .inl h
    · cases hx
  · rintro (rfl | ⟨e, rfl⟩)
    · exact ⟨.success 0 0 0 0, rfl⟩
    · exact ⟨.failure e, rfl⟩

theorem answer_read_iff (a : DevAddr) (wbytes : List Byte) {n : Nat} (ans : Answer) (hn : n ≤ 4) :
    (∃ d, (Txn.wr a wbytes n).answer d = ans) ↔
      (∃ bs : List Byte, bs.length = n ∧ ans = .okBytes bs) ∨ ∃ e, ans = .err e := by
  constructor
  · rintro ⟨d, rfl⟩
    obtain ⟨e, -, h⟩ | ⟨_, _, hx, -⟩ | ⟨_, _, m, bs, hx, h, hlen⟩ := answer_cases (.wr a wbytes n) d
    · exact .inr ⟨e, h⟩
    · cases hx
    · cases hx
      exact .inl ⟨bs, by omega, h⟩
  · rintro (⟨bs, rfl, rfl⟩ | ⟨e, rfl⟩)
    · exact ⟨.ofBytes bs, answer_ofBytes a wbytes hn⟩
    · exact ⟨.failure e, rfl⟩

/-- Settles O54: `answer_cases` bounds what a draw gives, and `Draw.ofBytes` reaches every list of up to four
bytes. -/
theorem drawsGiveExactlyTheLegalAnswers : Obligations.DrawsGiveExactlyTheLegalAnswers :=
  ⟨answer_write_iff, fun a wbytes _ ans hn => answer_read_iff a wbytes ans hn⟩

/-! ## The frames the plans are made of (R38, R63, R64, R67) -/

/-- The reads of R38: the register, and how many bytes are asked for. -/
def readAccesses : List (DevReg × Nat) :=
  [(.status, 1), (.aqi, 1), (.tvoc, 2), (.eco2, 2), (.dataT, 4), (.gprRead, 3)]

/-- The frames of R38, in terms of the registers: one constructor for each kind of access. -/
inductive ListedFrame : Frame → Prop
  /-- A mode code to the operating-mode register (R63, R79). -/
  | mode (m : Mode) : ListedFrame (memWrite .opmode [m.code])
  /-- The interrupt configuration (R115). -/
  | config (c : IntCfg) : ListedFrame (memWrite .config [intcfgEncode c])
  /-- A command byte (R64, R84, R85). -/
  | command (b : Byte) (hb : b = Config.cmdNop ∨ b = Config.cmdGetFw ∨ b = Config.cmdClear) :
      ListedFrame (memWrite .command [b])
  /-- A compensation value (R104, R105). -/
  | compensation (reg : DevReg) (raw : Int) (hreg : reg = .tempIn ∨ reg = .rhIn) :
      ListedFrame (memWrite reg (rawPayload raw))
  /-- A read (R85, R88 to R93). -/
  | read (reg : DevReg) (n : Nat) (hr : (reg, n) ∈ readAccesses) : ListedFrame (memRead reg n)

theorem listedFrame_of_modeWrite {i : Instr} {m : Mode} {f : Frame} (hf : f ∈ (modeWrite i m).frames) :
    ListedFrame f := by
  obtain rfl : f = memWrite .opmode [m.code] := List.mem_singleton.mp hf
  exact .mode m

theorem listedFrame_of_compensationWrite {i : Instr} {reg : DevReg} {raw : Int} {f : Frame}
    (hreg : reg = .tempIn ∨ reg = .rhIn) (hf : f ∈ (compensationWrite i reg raw).frames) : ListedFrame f := by
  obtain rfl : f = memWrite reg (rawPayload raw) := List.mem_singleton.mp hf
  exact .compensation reg raw hreg

theorem listedFrame_of_accessor {i : Instr} {reg : DevReg} {n : Nat} {dec : List Byte → Option OpResult}
    {f : Frame} (hr : (reg, n) ∈ readAccesses) (hf : f ∈ (accessor i reg n dec).frames) : ListedFrame f := by
  obtain rfl : f = memRead reg n := List.mem_singleton.mp hf
  exact .read reg n hr

theorem listedFrame_of_opSetIntcfg {c : IntCfg} {f : Frame} (hf : f ∈ (opSetIntcfg c).frames) :
    ListedFrame f := by
  obtain rfl : f = memWrite .config [intcfgEncode c] := List.mem_singleton.mp hf
  exact .config c

theorem listedFrame_of_opClearCommand {f : Frame} (hf : f ∈ opClearCommand.frames) : ListedFrame f := by
  obtain rfl | rfl : f = memWrite .command [Config.cmdNop] ∨ f = memWrite .command [Config.cmdClear] :=
    List.mem_pair.mp hf
  · exact .command _ (.inl rfl)
  · exact .command _ (.inr (.inr rfl))

theorem listedFrame_of_opFirmwareVersion {f : Frame} (hf : f ∈ opFirmwareVersion.frames) : ListedFrame f := by
  obtain rfl | rfl : f = memWrite .command [Config.cmdGetFw] ∨ f = memRead .gprRead 3 := List.mem_pair.mp hf
  · exact .command _ (.inr (.inl rfl))
  · exact .read _ _ (by decide)

/-- Every frame of every plan is one of the listed ones (R38). -/
theorem listedFrame_of_planOf {i : Instr} {p : BusOp} {f : Frame} (h : planOf i = some p) (hf : f ∈ p.frames) :
    ListedFrame f := by
  cases i <;> simp only [planOf, Option.some.injEq, reduceCtorEq] at h <;> subst h
  case reset => exact listedFrame_of_modeWrite hf
  case idle => exact listedFrame_of_modeWrite hf
  case deepSleep => exact listedFrame_of_modeWrite hf
  case operational => exact listedFrame_of_modeWrite hf
  case clearCommand => exact listedFrame_of_opClearCommand hf
  case firmwareVersion => exact listedFrame_of_opFirmwareVersion hf
  case status => exact listedFrame_of_accessor (by decide) hf
  case airqualityIndex => exact listedFrame_of_accessor (by decide) hf
  case tvoc => exact listedFrame_of_accessor (by decide) hf
  case eco2 => exact listedFrame_of_accessor (by decide) hf
  case tempAndHum => exact listedFrame_of_accessor (by decide) hf
  case setTemp t => exact listedFrame_of_compensationWrite (.inl rfl) hf
  case setHum u => exact listedFrame_of_compensationWrite (.inr rfl) hf
  case setIntcfg c => exact listedFrame_of_opSetIntcfg hf

/-- A planned transaction is a listed frame put to the device address (R125). -/
theorem listedFrame_of_txnAt {i : Instr} {a : DevAddr} {k : Nat} {x : Txn} (h : txnAt i a k = some x) :
    ∃ f, ListedFrame f ∧ x = f.txn a := by
  cases hp : planOf i with
  | none => simp [txnAt, hp] at h
  | some p =>
    rw [txnAt_of_planOf hp, Option.map_eq_some_iff] at h
    obtain ⟨f, hf, rfl⟩ := h
    exact ⟨f, listedFrame_of_planOf hp (List.mem_of_getElem? hf), rfl⟩

/-! ## The access marks (R46) -/

/-- A transaction that the marks of R46 permit, its payload as wide as its register. -/
def Txn.RespectsMarks (a : DevAddr) (x : Txn) : Prop :=
  (∃ (r : DevReg) (payload : List Byte),
    x = .w a (r.addr :: payload) ∧ r.access = .write ∧ payload.length = r.width) ∨
  (∃ (r : DevReg) (n : Nat), x = .wr a [r.addr] n ∧ (r.access = .read ∨ r = .gprRead))

theorem txn_memWrite_respectsMarks (a : DevAddr) {reg : DevReg} {payload : List Byte} (hr : reg.access = .write)
    (hl : payload.length = reg.width) : ((memWrite reg payload).txn a).RespectsMarks a :=
  .inl ⟨reg, payload, rfl, hr, hl⟩

theorem access_of_mem_readAccesses : ∀ q ∈ readAccesses, q.1.access = .read ∨ q.1 = .gprRead := by decide

theorem ListedFrame.respectsMarks {f : Frame} (h : ListedFrame f) (a : DevAddr) :
    (f.txn a).RespectsMarks a := by
  cases h with
  | mode m => exact txn_memWrite_respectsMarks a rfl rfl
  | config c => exact txn_memWrite_respectsMarks a rfl rfl
  | command b hb => exact txn_memWrite_respectsMarks a rfl rfl
  | compensation reg raw hreg =>
    obtain rfl | rfl := hreg <;> exact txn_memWrite_respectsMarks a rfl rfl
  | read reg n hr => exact .inr ⟨reg, n, rfl, access_of_mem_readAccesses _ hr⟩

/-- Settles O56: the marks are read off the map, and the planned transactions are listed frames, each of which
respects them. -/
theorem accessesRespectMarks : Obligations.AccessesRespectMarks := by
  refine ⟨fun r => by cases r <;> rfl, fun i a k x hx => ?_⟩
  obtain ⟨f, hf, rfl⟩ := listedFrame_of_txnAt hx
  exact hf.respectsMarks a

/-! ## What a step may issue (R34, R38 to R40) -/

/-- A field put at a position other than 7, 4 and 2 leaves those bits 0 (R67). -/
theorem fieldAt_and_reserved (b : Bool) {pos : Nat} (hp : pos ∈ [0, 1, 3, 5, 6]) :
    fieldAt b pos &&& 0x94 = 0 := by
  revert pos
  cases b <;> decide

/-- The configuration byte has its bits 7, 4 and 2 zero (R67, R72). -/
theorem intcfgEncode_and_reserved (c : IntCfg) : intcfgEncode c &&& 0x94 = 0 := by
  simp (disch := decide) only [intcfgEncode, BitVec.and_or_distrib_right, fieldAt_and_reserved]
  rfl

theorem allowed_of_mem_readAccesses (a : DevAddr) :
    ∀ q ∈ readAccesses, (Txn.wr a [q.1.addr] q.2).Allowed := by
  simp [readAccesses, Txn.Allowed, DevReg.addr]

/-- A listed frame is one of the accesses of R38, whatever the device. -/
theorem ListedFrame.allowed {f : Frame} (h : ListedFrame f) (a : DevAddr) : (f.txn a).Allowed := by
  cases h with
  | mode m =>
    have hcode : m.code = 0x00 ∨ m.code = 0x01 ∨ m.code = 0x02 ∨ m.code = 0xF0 := by cases m <;> decide
    exact .inl ⟨rfl, hcode⟩
  | config c => exact .inr (.inl ⟨rfl, intcfgEncode_and_reserved c⟩)
  | command b hb => exact .inr (.inr ⟨rfl, hb⟩)
  | compensation reg raw hreg => exact hreg.imp (congrArg DevReg.addr) (congrArg DevReg.addr)
  | read reg n hr => exact allowed_of_mem_readAccesses a _ hr

@[simp] theorem addr_txn (a : DevAddr) (f : Frame) : (f.txn a).addr = a := by cases f <;> rfl

theorem issued_append (es es' : List Event) : issued (es ++ es') = issued es ++ issued es' := by
  induction es with
  | nil => rfl
  | cons e es ih => cases e <;> simp [issued, ih]

/-- An event other than an `Issue` adds nothing to the transactions issued. -/
theorem issued_append_of_ne {e : Event} (he : ∀ x, e ≠ .issue x) (es : List Event) :
    issued (es ++ [e]) = issued es := by
  cases e with
  | issue x => exact absurd rfl (he x)
  | _ => simp [issued_append, issued]

theorem Seq.issued_cancel (q : Seq) : issued q.cancel.trace = issued q.trace := by
  cases hx : q.inflight with
  | none => rw [Seq.cancel_of_none hx]; rfl
  | some x => rw [Seq.cancel_of_some hx]; exact issued_append_of_ne (by simp) q.trace

/-- A move of an operation issues nothing, or the transaction of its plan that `S.step` names, to the device of
the handle (R122). -/
theorem OpMove.issued_cases {i : Instr} {q q' : Seq} {rs : List Response} (hm : OpMove i q q' rs) :
    issued q'.trace = issued q.trace ∨
    ∃ a x, issued q'.trace = issued q.trace ++ [x] ∧ q.latched = encode i ∧ q.devAddr = some a ∧
      txnAt i a q.stepIdx.toNat = some x := by
  cases hm with
  | waits => exact .inl rfl
  | responds r hb => exact .inl rfl
  | takes a hi hb => exact .inl rfl
  | drops hi hb => exact .inl rfl
  | latches p hp hb ho hr => exact .inl rfl
  | issues p a f hp hb hn hl ha hf =>
    exact .inr ⟨a, f.txn a, issued_append _ _, hl, ha, by simp [txnAt_of_planOf hp, hf]⟩
  | goesOn p x bs e hp hb hx hl hr hk => exact .inl (issued_append_of_ne hr.ne_issue q.trace)
  | ends p x bs e r hp hb hx hl hr hk hf => exact .inl (issued_append_of_ne hr.ne_issue q.trace)
  | fails p x e hp hb hx hl => exact .inl (issued_append_of_ne (by simp) q.trace)

/-- Settles O36: only a move of the operation latched can issue, and what it issues is a listed frame of its
plan. -/
theorem onlyListedAccessesAreIssued : Obligations.OnlyListedAccessesAreIssued := by
  intro v s t hs
  obtain ⟨he, -⟩ | ⟨i, rs, hd, hm⟩ | he := step_seq hs
  · exact .inl (he ▸ s.seq.issued_cancel)
  · obtain h | ⟨a, x, h, hl, ha, hx⟩ := hm.issued_cases
    · exact .inl h
    · obtain ⟨f, hf, rfl⟩ := listedFrame_of_txnAt hx
      exact .inr ⟨f.txn a, i, h, hf.allowed a, by simpa using ha, by rwa [hl], by simpa using hx⟩
  · exact .inl (by rw [he])

end Sys2Proof.Machine
end

section
/-!
PROOFS. The encoding of the operations and of their frames (30_encoding.md): the round trip of the command word, the
words that are `Illegal`, the configuration byte, and the packed response. The 17 sub-format choices of the decoder
are walked through three times: for the operands it yields (`wf_of_decodeFields`), for an `op` it does not know
(`decodeFields_unknown`), and for the reserved bits (`decodeFields_known`).
-/

namespace Sys2Proof.Machine

/-! ## The round trip (R54 to R56, R60) -/

/-- The word of a well-formed operation decodes to it: `Laws.RoundTrip`, constructor by constructor. -/
theorem decode_encode {i : Instr} (h : i.wf = true) : decode (encode i) = .ok i := by
  cases i with
  | init a => exact Laws.RoundTrip.init a h
  | release => exact Laws.RoundTrip.release h
  | reset => exact Laws.RoundTrip.reset h
  | idle => exact Laws.RoundTrip.idle h
  | deepSleep => exact Laws.RoundTrip.deepSleep h
  | operational => exact Laws.RoundTrip.operational h
  | clearCommand => exact Laws.RoundTrip.clearCommand h
  | firmwareVersion => exact Laws.RoundTrip.firmwareVersion h
  | status => exact Laws.RoundTrip.status h
  | airqualityIndex => exact Laws.RoundTrip.airqualityIndex h
  | tvoc => exact Laws.RoundTrip.tvoc h
  | eco2 => exact Laws.RoundTrip.eco2 h
  | tempAndHum => exact Laws.RoundTrip.tempAndHum h
  | setTemp t => exact Laws.RoundTrip.setTemp t h
  | setHum u => exact Laws.RoundTrip.setHum u h
  | eco2ToAqi v => exact Laws.RoundTrip.eco2ToAqi v h
  | setIntcfg c => exact Laws.RoundTrip.setIntcfg c h

theorem wf_setTemp_toInt (arg : BitVec 32) : (Instr.setTemp arg.toInt).wf = true :=
  decide_eq_true ⟨arg.le_toInt, Int.le_of_lt_add_one arg.toInt_lt⟩

/-- The operand the decoder reads fits its sub-format (R55). -/
theorem wf_of_decodeFields {op : Byte} {arg : BitVec 32} {i : Instr} (h : decodeFields op arg = .ok i) :
    i.wf = true := by
  unfold decodeFields at h
  split at h
  case h_1 => obtain ⟨a, rfl, -⟩ := decodeHA_ok h; rfl
  case h_14 => obtain rfl := decodeHT_ok h; exact wf_setTemp_toInt arg
  case h_15 => obtain ⟨u, rfl, hu, -⟩ := decodeHU_ok h; exact decide_eq_true hu
  case h_16 => obtain ⟨v, rfl, hv, -⟩ := decodeHU_ok h; exact decide_eq_true hv
  case h_17 => obtain ⟨c, rfl, -⟩ := decodeHI_ok h; rfl
  case h_18 => cases h
  all_goals obtain ⟨rfl, -⟩ := decodeH0_ok h; rfl

/-- Settles O1: `decode_encode` one way; the other way the operand read fits, and `encode_of_decode` gives the
word back. -/
theorem decodeEncodeRoundTrip : Obligations.DecodeEncodeRoundTrip :=
  ⟨fun _ => decode_encode, fun _ _ h => ⟨wf_of_decodeFields h, encode_of_decode h⟩⟩

/-! ## The words that are `Illegal` (R60, R70, R71) -/

/-- The bits from `n` up are all 0 exactly when the number is below `2 ^ n`. -/
theorem and_allOnes_shiftLeft_eq_zero_iff {w : Nat} (x : BitVec w) (n : Nat) :
    x &&& (BitVec.allOnes w <<< n) = 0 ↔ x.toNat < 2 ^ n := by
  constructor
  · intro h
    refine Nat.lt_pow_two_of_testBit _ fun i hi => ?_
    obtain hw | hw := Nat.lt_or_ge i w
    · have hbit := congrArg (BitVec.getLsbD · i) h
      rw [BitVec.testBit_toNat]
      simpa [hw, Nat.not_lt.mpr hi, show i - n < w by omega] using hbit
    · exact BitVec.getLsbD_of_ge x i hw
  · intro h
    ext i hi
    obtain hn | hn := Nat.lt_or_ge i n
    · simp [hn]
    · have : x.getLsbD i = false :=
        Nat.testBit_lt_two_pow (h.trans_le (Nat.pow_le_pow_right Nat.two_pos hn))
      simp [← BitVec.getLsbD_eq_getElem, this]

/-- Sub-format H0 in terms of its reserved bits: all 32 (R55). -/
theorem decodeH0_eq (i : Instr) (arg : BitVec 32) :
    decodeH0 i arg = if arg &&& 0xFFFFFFFF = 0 then .ok i else .error .reservedBit :=
  if_congr (Nat.lt_one_iff.symm.trans (and_allOnes_shiftLeft_eq_zero_iff arg 0).symm) rfl rfl

/-- Sub-format HA in terms of its reserved bits, `arg[31:7]` (R55). -/
theorem decodeHA_eq (f : DevAddr → Instr) (arg : BitVec 32) :
    decodeHA f arg = if arg &&& 0xFFFFFF80 = 0 then .ok (f (arg.extractLsb' 0 7)) else .error .reservedBit :=
  if_congr (and_allOnes_shiftLeft_eq_zero_iff arg 7).symm rfl rfl

/-- Sub-format HT has no reserved bits (R55). -/
theorem decodeHT_eq (f : Int → Instr) (arg : BitVec 32) :
    decodeHT f arg = if arg &&& 0x00000000 = 0 then .ok (f arg.toInt) else .error .reservedBit :=
  (if_pos BitVec.and_zero).symm

/-- Sub-format HU in terms of its reserved bits, `arg[31:16]` (R55). -/
theorem decodeHU_eq (f : Nat → Instr) (arg : BitVec 32) :
    decodeHU f arg =
      if arg &&& 0xFFFF0000 = 0 then .ok (f (arg.extractLsb' 0 16).toNat) else .error .reservedBit :=
  if_congr (and_allOnes_shiftLeft_eq_zero_iff arg 16).symm rfl rfl

/-- Sub-format HI in terms of its reserved bits, `arg[31:5]` (R55). -/
theorem decodeHI_eq (f : IntCfg → Instr) (arg : BitVec 32) :
    decodeHI f arg = if arg &&& 0xFFFFFFE0 = 0 then .ok (f (intCfgOfArg arg)) else .error .reservedBit :=
  if_congr (and_allOnes_shiftLeft_eq_zero_iff arg 5).symm rfl rfl

/-- The opcode map has no row for 0x00 and none from 0x12 up (R70). -/
theorem decodeFields_unknown {op : Byte} (arg : BitVec 32) (h : op.toNat < 0x01 ∨ 0x11 < op.toNat) :
    decodeFields op arg = .error .illegalOp := by
  unfold decodeFields
  split
  case h_18 => rfl
  all_goals omega

/-- A row of the opcode map refuses exactly the operands with a reserved bit set (R71). -/
theorem decodeFields_known {op : Byte} (arg : BitVec 32) (hlo : 0x01 ≤ op.toNat) (hhi : op.toNat ≤ 0x11) :
    ∃ i, decodeFields op arg = if arg &&& reservedBits op = 0 then .ok i else .error .reservedBit := by
  have hop : ∀ n, op.toNat = n → op = BitVec.ofNat 8 n := fun n hn => by simp [← hn]
  unfold decodeFields
  split
  case h_1 hn => rw [hop _ hn]; exact ⟨_, decodeHA_eq _ arg⟩
  case h_14 hn => rw [hop _ hn]; exact ⟨_, decodeHT_eq _ arg⟩
  case h_15 hn => rw [hop _ hn]; exact ⟨_, decodeHU_eq _ arg⟩
  case h_16 hn => rw [hop _ hn]; exact ⟨_, decodeHU_eq _ arg⟩
  case h_17 hn => rw [hop _ hn]; exact ⟨_, decodeHI_eq _ arg⟩
  case h_18 => simp only [imp_false] at *; omega
  all_goals rw [hop _ ‹_›]; exact ⟨_, decodeH0_eq _ arg⟩

theorem decode_unknown {cw : CmdWord} (h : (CmdWord.op cw).toNat < 0x01 ∨ 0x11 < (CmdWord.op cw).toNat) :
    decode cw = .error .illegalOp := decodeFields_unknown _ h

theorem decode_reserved {cw : CmdWord} (hlo : 0x01 ≤ (CmdWord.op cw).toNat) (hhi : (CmdWord.op cw).toNat ≤ 0x11)
    (hr : CmdWord.arg cw &&& reservedBits (CmdWord.op cw) ≠ 0) : decode cw = .error .reservedBit := by
  obtain ⟨i, hi⟩ := decodeFields_known (CmdWord.arg cw) hlo hhi
  exact hi.trans (if_neg hr)

theorem decode_legal {cw : CmdWord} (hlo : 0x01 ≤ (CmdWord.op cw).toNat) (hhi : (CmdWord.op cw).toNat ≤ 0x11)
    (hr : CmdWord.arg cw &&& reservedBits (CmdWord.op cw) = 0) : ∃ i, decode cw = .ok i := by
  obtain ⟨i, hi⟩ := decodeFields_known (CmdWord.arg cw) hlo hhi
  exact ⟨i, hi.trans (if_pos hr)⟩

/-- A word with a reserved bit set is `Illegal`, whether or not its `op` is known (R70, R71). -/
theorem decode_illegal_of_reserved {cw : CmdWord} (h : CmdWord.arg cw &&& reservedBits (CmdWord.op cw) ≠ 0) :
    ∃ e, decode cw = .error e := by
  by_cases hop : (CmdWord.op cw).toNat < 0x01 ∨ 0x11 < (CmdWord.op cw).toNat
  · exact ⟨_, decode_unknown hop⟩
  · exact ⟨_, decode_reserved (by omega) (by omega) h⟩

/-- The two fields of a legal word are those of its operation (R54). -/
theorem fields_of_decode {cw : CmdWord} {i : Instr} (h : decode cw = .ok i) :
    i.opcode = CmdWord.op cw ∧ i.operand = CmdWord.arg cw := by
  simp [← encode_of_decode h, encode]

/-- Settles O2: the three outcomes by the range of `op` and the reserved bits; the one word of an operation is its
encoding. -/
theorem decodeIsTotalAndUnambiguous : Obligations.DecodeIsTotalAndUnambiguous := by
  refine ⟨fun _ => decode_unknown, fun _ => decode_reserved, fun cw hlo hhi hr => ?_, fun i hi => ?_⟩
  · obtain ⟨i, hi⟩ := decode_legal hlo hhi hr
    exact ⟨i, hi, wf_of_decodeFields hi, fields_of_decode hi⟩
  · exact ⟨encode i, decode_encode hi, fun cw hcw => (encode_of_decode hcw).symm⟩

/-- Settles O3: eleven closed words, each evaluated. -/
theorem specWordsDecode : Obligations.SpecWordsDecode := by
  unfold Obligations.SpecWordsDecode
  decide

/-- In `IDLE` the next step is ACCEPT of the word presented (R120, R121). -/
theorem stepWith_present (v : ExecVariant) {s : State} {cw : CmdWord} {rest : List HostMove}
    (hb : s.seq.busy = false) (hh : s.host = .present cw :: rest) :
    stepWith v s = acceptWord cw { s with host := rest } := by
  simp [stepWith, hb, stepIdle, hh]

/-- Settles O6: such a word is `Illegal`, and ACCEPT of an `Illegal` word is the refusal and nothing else. -/
theorem illegalWordRefused : Obligations.IllegalWordRefused := by
  intro v s cw rest hb hh hill
  obtain ⟨e, he⟩ : ∃ e, decode cw = .error e := by
    obtain (hop | hop) | hr := hill
    · exact ⟨_, decode_unknown (.inl (by simp [hop]))⟩
    · exact ⟨_, decode_unknown (.inr hop)⟩
    · exact decode_illegal_of_reserved hr
  rw [stepWith_present v hb hh, acceptWord_of_illegal he]
  rfl

/-! ## The encoding of one operation (R55, R71) -/

/-- Every well-formed operation is encoded by its code and its operand, and a reserved bit of its sub-format is
refused. -/
theorem encodedAs_of_wf {i : Instr} (h : i.wf = true) :
    EncodedAs i i.opcode i.operand (reservedBits i.opcode) := by
  refine ⟨decode_encode h, fun x s hx _ => ?_⟩
  obtain ⟨e, he⟩ := decode_illegal_of_reserved (cw := cmdWord i.opcode x) (by simpa using hx)
  rw [acceptWord_of_illegal he]
  rfl

/-! ## The steps of an operation with a plan (R121 to R123) -/

/-- ACCEPT: refused without a handle, latched with one (R121). -/
theorem needsHandle_of_planOf {i : Instr} {p : BusOp} (hp : planOf i = some p) (hr : p.inRange = true) :
    NeedsHandle i := by
  intro s hb
  rw [RefusedWith, AcceptedIn, exec_of_planOf hp, runBus_idle p hb]
  obtain ⟨ho, h⟩ | ⟨ho, hn, h⟩ | ⟨ho, -, h⟩ := acceptBus_cases p s
  · exact ⟨fun _ => congrArg _ h, fun ho' => by simp [ho] at ho'⟩
  · simp [hr] at hn
  · refine ⟨fun ho' => by simp [ho] at ho', fun _ => ?_⟩
    simp [h, word_of_planOf hp, State.withSeq, Seq.latch, encode]

/-- ISSUE: in `READY(k)` the operation hands frame `k` of its plan to the transport (R122). -/
theorem issuesFrame_of_planOf {i : Instr} {p : BusOp} {k : Nat} {f : Frame} (hp : planOf i = some p)
    (hf : p.frames[k]? = some f) : IssuesFrame i k (fun a => f.txn a) := by
  rintro s a ⟨hb, hn, hl, hk, ha⟩
  rw [exec_of_planOf hp, runBus_ready hb hn (hl.trans (word_of_planOf hp).symm)]
  simp [issueTxn, ha, hk, hf, State.withSeq, Seq.issue]

/-- COMPLETE: in `WAIT` on `x` about to be answered with `d`, the answer is taken (R123). -/
theorem exec_answering {i : Instr} {p : BusOp} {s : State} {k : Nat} {x : Txn} {d : Draw}
    {rest : List TransportMove} (hp : planOf i = some p) (h : s.Answering i k x d rest) :
    exec i s = completeTxn p { s with transport := rest } (x.answer d) := by
  obtain ⟨hb, hx, hl, -, ht⟩ := h
  rw [exec_of_planOf hp, runBus_wait hb hx (hl.trans (word_of_planOf hp).symm)]
  simp only [awaitAnswer, ht]

/-- COMPLETE with success of the last transaction, a write, of a plan without result (R123). -/
theorem writeEndsOk_of_planOf {i : Instr} {p : BusOp} {k : Nat} (hp : planOf i = some p)
    (hk : p.nsteps ≤ k + 1) (hfin : p.finish = noResult) : WriteEndsOk i k := by
  intro s a bytes b0 b1 b2 b3 rest h
  have hlast : ¬ s.seq.stepIdx.toNat + 1 < p.nsteps := by rw [h.step]; omega
  rw [exec_answering hp h]
  simp [Txn.answer, completeTxn, afterSuccess, hlast, hfin, noResult, State.withSeq, State.respond, Seq.close,
    Seq.endOp]

/-- COMPLETE with failure, at either transaction (R123, R141). -/
theorem failureEnds_of_planOf {i : Instr} {p : BusOp} (k : Nat) (hp : planOf i = some p) : FailureEnds i k := by
  intro s x e rest h
  rw [exec_answering hp h]
  rfl

/-! ## The configuration byte (R67, R113, R115) -/

theorem Polarity.bit_eq_decide (p : Polarity) : p.bit = decide (p = .activeHigh) := by cases p <;> rfl

theorem Drive.bit_eq_decide (m : Drive) : m.bit = decide (m = .pushPull) := by cases m <;> rfl

/-- A field of the configuration byte drives the bit at its position and no other (R116). -/
theorem getLsbD_fieldAt (b : Bool) (pos : Nat) {j : Nat} (hj : j < 8) :
    (fieldAt b pos).getLsbD j = (decide (j = pos) && b) := by
  simp only [fieldAt, BitVec.getLsbD_shiftLeft, BitVec.getLsbD_setWidth, BitVec.getLsbD_ofBool]
  rw [Bool.eq_iff_iff]
  simp only [Bool.and_eq_true, Bool.not_eq_true', decide_eq_true_eq, decide_eq_false_iff_not]
  constructor
  · rintro ⟨⟨-, hge⟩, -, hz, hb⟩
    exact ⟨by omega, hb⟩
  · rintro ⟨rfl, hb⟩
    exact ⟨⟨hj, lt_irrefl _⟩, by omega, by omega, hb⟩

/-- Each bit of the configuration byte is the field at its position, or 0 (R113). -/
theorem getLsbD_intcfgEncode (c : IntCfg) {j : Nat} (hj : j < 8) :
    (intcfgEncode c).getLsbD j =
      (decide (j = 0) && c.en || decide (j = 1) && c.onDrdy || decide (j = 3) && c.onGpr ||
        decide (j = 5) && c.drive.bit || decide (j = 6) && c.polarity.bit) := by
  have hbase : (0x00 : Byte).getLsbD j = false := BitVec.getLsbD_zero
  simp only [intcfgEncode, BitVec.getLsbD_or, getLsbD_fieldAt _ _ hj, hbase, Bool.false_or]

/-- Settles O26: `SET_INTCFG` is a plan of one write, and each of its five fields drives its own bit. -/
theorem setIntcfgWritesEncodedByte : Obligations.SetIntcfgWritesEncodedByte := by
  refine ⟨fun c => ?_, fun c => ?_⟩
  · rw [← Polarity.bit_eq_decide, ← Drive.bit_eq_decide]
    exact encodedAs_of_wf (i := .setIntcfg c) rfl
  · have hp : planOf (.setIntcfg c) = some (opSetIntcfg c) := rfl
    refine ⟨needsHandle_of_planOf hp rfl, ⟨intcfgEncode c,
      issuesFrame_of_planOf (f := memWrite .config [intcfgEncode c]) hp rfl, ?_⟩,
      writeEndsOk_of_planOf hp le_rfl rfl, failureEnds_of_planOf 0 hp⟩
    simp (disch := decide) only [getLsbD_intcfgEncode]
    simp [Polarity.bit_eq_decide, Drive.bit_eq_decide]

/-! ## The packed response (R57 to R59) -/

/-- A field of `m` bits put above the `n` bits that `x` keeps to adds its value times `2 ^ n`, and the two together
keep to `n + m` bits. -/
theorem toNat_or_field {w m n : Nat} {x : BitVec w} (y : BitVec m) (hx : x.toNat < 2 ^ n) (hw : n + m ≤ w) :
    (x ||| y.setWidth w <<< n).toNat = x.toNat + 2 ^ n * y.toNat ∧
      (x ||| y.setWidth w <<< n).toNat < 2 ^ (n + m) := by
  have hy : y.toNat * 2 ^ n < 2 ^ w := calc
    y.toNat * 2 ^ n < 2 ^ m * 2 ^ n := Nat.mul_lt_mul_of_pos_right y.isLt (Nat.two_pow_pos n)
    _ = 2 ^ (n + m) := by rw [← pow_add, Nat.add_comm]
    _ ≤ 2 ^ w := Nat.pow_le_pow_right Nat.two_pos hw
  have hsum : (x ||| y.setWidth w <<< n).toNat = x.toNat + 2 ^ n * y.toNat := by
    rw [BitVec.toNat_or, BitVec.toNat_shiftLeft, BitVec.toNat_setWidth_of_le (by omega), Nat.shiftLeft_eq,
      Nat.mod_eq_of_lt hy, Nat.or_comm, ← Nat.shiftLeft_eq, ← Nat.shiftLeft_add_eq_or_of_lt hx, Nat.shiftLeft_eq]
    ring
  refine ⟨hsum, hsum ▸ ?_⟩
  calc x.toNat + 2 ^ n * y.toNat < 2 ^ n + 2 ^ n * y.toNat := Nat.add_lt_add_right hx _
    _ = 2 ^ n * (y.toNat + 1) := by ring
    _ ≤ 2 ^ n * 2 ^ m := Nat.mul_le_mul_left _ y.isLt
    _ = 2 ^ (n + m) := (pow_add 2 n m).symm

theorem toNat_dataBit_zero (b : Bool) : (dataBit b 0).toNat = b.toNat := by cases b <;> rfl

/-- The status record, field above field (R59). -/
theorem toNat_pack_status (r : StatusRec) : (OpResult.status r).pack.toNat =
    r.newDataInGpr.toNat + 2 * r.dataReady.toNat + 4 * r.validity.code.toNat + 16 * r.error.toNat +
      32 * r.runningNormally.toNat := by
  have h0 : (dataBit r.newDataInGpr 0).toNat < 2 ^ 1 := toNat_dataBit_zero _ ▸ Bool.toNat_lt _
  obtain ⟨e1, h1⟩ := toNat_or_field (.ofBool r.dataReady) h0 (by decide)
  obtain ⟨e2, h2⟩ := toNat_or_field r.validity.code h1 (by decide)
  obtain ⟨e3, h3⟩ := toNat_or_field (.ofBool r.error) h2 (by decide)
  obtain ⟨e4, -⟩ := toNat_or_field (.ofBool r.runningNormally) h3 (by decide)
  rw [e3, e2, e1, toNat_dataBit_zero, BitVec.toNat_ofBool, BitVec.toNat_ofBool, BitVec.toNat_ofBool] at e4
  exact e4

/-- Temperature below, humidity above (R59). -/
theorem toNat_pack_tempHum (t : BitVec 32) (h : Half) :
    (OpResult.tempHum t h).pack.toNat = t.toNat + 2 ^ 32 * h.toNat := by
  have ht : (t.setWidth 64).toNat = t.toNat := BitVec.toNat_setWidth_of_le (by decide)
  obtain ⟨e, -⟩ := toNat_or_field (x := t.setWidth 64) (n := 32) h (ht.trans_lt t.isLt) (by decide)
  rwa [ht] at e

/-- The three bytes of a version, the major one lowest (R59). -/
theorem toNat_pack_firmware (major minor patch : Byte) :
    (OpResult.firmware major minor patch).pack.toNat =
      major.toNat + 2 ^ 8 * minor.toNat + 2 ^ 16 * patch.toNat := by
  have hm : (major.setWidth 64).toNat = major.toNat := BitVec.toNat_setWidth_of_le (by decide)
  obtain ⟨e1, h1⟩ := toNat_or_field (x := major.setWidth 64) (n := 8) minor (hm.trans_lt major.isLt) (by decide)
  obtain ⟨e2, -⟩ := toNat_or_field patch h1 (by decide)
  rwa [e1, hm] at e2

/-- `info` is wide enough for every 16-bit value (R57). -/
theorem toNat_setWidth_infoWidth (v : BitVec 16) : (v.setWidth infoWidth).toNat = v.toNat :=
  BitVec.toNat_setWidth_of_le (le_max_right _ _)

/-- Settles O57: each kind by its own clause; the results of several fields by the sum of their fields. -/
theorem responsePacking : Obligations.ResponsePacking := by
  refine ⟨fun r => ⟨rfl, BitVec.toNat_zero⟩, fun e => ⟨rfl, ?_, rfl⟩, fun v => ⟨rfl, ?_, rfl⟩,
    fun r => ⟨rfl, rfl, ?_⟩, fun r => ?_, fun a => ?_, fun v => ?_, toNat_pack_tempHum, toNat_pack_firmware, rfl⟩
  · exact BitVec.toNat_setWidth_of_le (le_max_left _ _)
  · exact toNat_setWidth_infoWidth v
  · refine (toNat_setWidth_infoWidth r.code).trans ?_
    cases r <;> rfl
  · refine (toNat_pack_status r).trans ?_
    cases r.validity <;> rfl
  · cases a <;> rfl
  · exact BitVec.toNat_setWidth_of_le (by decide)

end Sys2Proof.Machine
end

section
/-!
PROOFS. The lifecycle (40_lifecycle.md): `INIT`, `RELEASE`, and the frame of the three operations without a plan. An
operation without a plan is one `runNow`: refused for the handle, or its effect at once.
-/

namespace Sys2Proof.Machine

/-! ## The ACCEPT of an operation without transactions (R76, R121) -/

/-- The ownership check refuses it, and nothing but the response changes (R76 (2), R141). -/
theorem runNow_of_refusal {o : Ownership} {s : State} {r : Reason} (e : State → State) (hb : s.seq.busy = false)
    (ho : o.refusal s.seq.owned = some r) : runNow o e s = .next (s.abnormalEnd (.refuse r)) := by
  simp only [runNow, s.seq.ctrl_of_not_busy hb, ho]

/-- The ownership check lets it pass, and it takes its effect (R121). -/
theorem runNow_of_no_refusal {o : Ownership} {s : State} (e : State → State) (hb : s.seq.busy = false)
    (ho : o.refusal s.seq.owned = none) : runNow o e s = .next (e s) := by
  simp only [runNow, s.seq.ctrl_of_not_busy hb, ho]

/-! ## INIT and RELEASE (R77, R78) -/

theorem exec_init_of_not_owned (a : DevAddr) {s : State} (hb : s.seq.busy = false) (ho : s.seq.owned = false) :
    exec (.init a) s = .next ((s.withSeq (s.seq.takeHandle a)).respond (.ok .unit)) :=
  (exec_init a s).trans (runNow_of_no_refusal _ hb (by simp [Ownership.refusal, ho]))

theorem exec_init_of_owned (a : DevAddr) {s : State} (hb : s.seq.busy = false) (ho : s.seq.owned = true) :
    exec (.init a) s = .next (s.abnormalEnd (.refuse .alreadyOwned)) :=
  (exec_init a s).trans (runNow_of_refusal _ hb (by simp [Ownership.refusal, ho]))

theorem exec_release_of_owned {s : State} (hb : s.seq.busy = false) (ho : s.seq.owned = true) :
    exec .release s = .next ((s.withSeq s.seq.dropHandle).respond (.ok .unit)) :=
  (exec_release s).trans (runNow_of_no_refusal _ hb (by simp [Ownership.refusal, ho]))

/-- Settles O10: the two outcomes of the ownership check of `INIT`; every address is well-formed, so its word is the
encoding. -/
theorem initCreatesHandle : Obligations.InitCreatesHandle :=
  ⟨fun a _ => exec_init_of_not_owned a, fun a _ => exec_init_of_owned a, fun a => encodedAs_of_wf (i := .init a) rfl⟩

/-- Settles O11: the state after `RELEASE` is `IDLE` without a handle, so `noHandleRefused` and
`exec_init_of_not_owned` apply to it. -/
theorem releaseDropsHandle : Obligations.ReleaseDropsHandle := by
  refine ⟨encodedAs_of_wf (i := .release) rfl, fun s => exec_release_of_owned,
    fun s => noHandleRefused .release s rfl, fun s t hb ho h => ?_⟩
  obtain rfl := next_inj ((exec_release_of_owned hb ho).symm.trans h)
  exact ⟨fun i hi => noHandleRefused i _ hi hb rfl, fun a => ⟨_, exec_init_of_not_owned a hb rfl, rfl, rfl⟩⟩

/-! ## The frame of the operations without transactions (R77, R78, R106) -/

/-- `t` is `s` after one more response, with any handle: every other field is that of `s`. -/
def State.RespondedUpToHandle (s t : State) : Prop :=
  ∃ owned devAddr r, t = (s.withSeq { s.seq with owned := owned, devAddr := devAddr }).respond r

/-- A response alone leaves the handle too. -/
theorem State.respondedUpToHandle_respond (s : State) (r : Response) : s.RespondedUpToHandle (s.respond r) :=
  ⟨s.seq.owned, s.seq.devAddr, r, rfl⟩

/-- A refusal is such a response (R141), so an operation without transactions is framed as its effect is. -/
theorem runNow_respondedUpToHandle {o : Ownership} {e : State → State} {s t : State}
    (he : s.RespondedUpToHandle (e s)) (h : runNow o e s = .next t) : s.RespondedUpToHandle t := by
  obtain ⟨-, ⟨r, -, rfl⟩ | ⟨-, rfl⟩⟩ := runNow_next h
  · exact s.respondedUpToHandle_respond (.refused r)
  · exact he

/-- An operation with a plan uses the bus (R125). -/
theorem usesBus_of_planOf {i : Instr} {p : BusOp} (h : planOf i = some p) : usesBus i = true := by
  cases i with
  | init a => cases h
  | release => cases h
  | eco2ToAqi v => cases h
  | _ => rfl

/-- Each effect is a response after a change of the handle, or of nothing (R77, R78, R106). -/
theorem exec_respondedUpToHandle {i : Instr} {s t : State} (hi : usesBus i = false) (h : exec i s = .next t) :
    s.RespondedUpToHandle t := by
  obtain ⟨p, hp⟩ | ⟨a, rfl⟩ | rfl | ⟨v, rfl⟩ := planOf_cases i
  · simp [usesBus_of_planOf hp] at hi
  · exact runNow_respondedUpToHandle ⟨true, some a, .ok .unit, rfl⟩ (exec_init a s ▸ h)
  · exact runNow_respondedUpToHandle ⟨false, none, .ok .unit, rfl⟩ (exec_release s ▸ h)
  · obtain ⟨r, hr⟩ := classify_eq v s
    exact runNow_respondedUpToHandle (hr ▸ s.respondedUpToHandle_respond r) (exec_eco2ToAqi v s ▸ h)

/-- Settles O39: each of the three operations changes the responses and at most the handle. -/
theorem immediateOperationsLeaveBus : Obligations.ImmediateOperationsLeaveBus := by
  intro i s t hi h
  obtain ⟨owned, devAddr, r, rfl⟩ := exec_respondedUpToHandle hi h
  exact ⟨rfl, rfl, rfl, rfl, rfl, rfl, rfl, rfl⟩

end Sys2Proof.Machine
end

section
/-!
PROOFS. The mode and command operations (41_mode_command.md): each is a plan of writes to one register, and
`FIRMWARE_VERSION` ends with a read. The run of `FIRMWARE_VERSION` is its ACCEPT, then ISSUE and COMPLETE of each of
its two transactions.
-/

namespace Sys2Proof.Machine

/-! ## The successes of a plan with a second transaction or a read (R123) -/

/-- COMPLETE with success of a write that another transaction follows. -/
theorem writeGoesOn_of_planOf {i : Instr} {p : BusOp} (hp : planOf i = some p) (hn : 1 < p.nsteps) :
    WriteGoesOn i := by
  intro s a bytes b0 b1 b2 b3 rest h
  have hk : s.seq.stepIdx = 0 := BitVec.eq_of_toNat_eq h.step
  rw [exec_answering hp h]
  simp [Txn.answer, completeTxn, afterSuccess, hk, hn, State.withSeq, Seq.close, Seq.nextTxn]

/-- COMPLETE with success of the last transaction, a read whose bytes are enough for the result. -/
theorem readEndsOk_of_planOf {i : Instr} {p : BusOp} {k n : Nat} {res : Byte → Byte → Byte → Byte → OpResult}
    (hp : planOf i = some p) (hk : p.nsteps ≤ k + 1)
    (hfin : ∀ b0 b1 b2 b3, p.finish ([b0, b1, b2, b3].take n) = some (res b0 b1 b2 b3)) : ReadEndsOk i k n res := by
  intro s a wbytes b0 b1 b2 b3 rest h
  have hlast : ¬ s.seq.stepIdx.toNat + 1 < p.nsteps := by rw [h.step]; omega
  rw [exec_answering hp h]
  simp [Txn.answer, completeTxn, afterSuccess, hlast, hfin, State.withSeq, State.respond, Seq.close, Seq.receive,
    Seq.endOp]

/-! ## The operations (R79 to R85) -/

/-- `MODE_WRITE(code)` (R79): one write of the mode code, which ends the operation either way. -/
theorem modeWrite_steps {i : Instr} {m : Mode} (hp : planOf i = some (modeWrite i m)) :
    IssuesFrame i 0 (fun a => .w a [0x10, m.code]) ∧ WriteEndsOk i 0 ∧ FailureEnds i 0 :=
  ⟨issuesFrame_of_planOf (f := memWrite .opmode [m.code]) hp rfl, writeEndsOk_of_planOf hp le_rfl rfl,
    failureEnds_of_planOf 0 hp⟩

/-- Settles O16: each of the four is the `MODE_WRITE` of its mode. -/
theorem modeOperationsWriteTheirCode : Obligations.ModeOperationsWriteTheirCode :=
  ⟨⟨⟨encodedAs_of_wf (i := .reset) rfl, needsHandle_of_planOf (p := opReset) rfl rfl⟩,
      ⟨encodedAs_of_wf (i := .idle) rfl, needsHandle_of_planOf (p := opIdle) rfl rfl⟩,
      ⟨encodedAs_of_wf (i := .deepSleep) rfl, needsHandle_of_planOf (p := opDeepSleep) rfl rfl⟩,
      ⟨encodedAs_of_wf (i := .operational) rfl, needsHandle_of_planOf (p := opOperational) rfl rfl⟩⟩,
    modeWrite_steps (m := .sleep) rfl, modeWrite_steps (m := .idle) rfl, modeWrite_steps (m := .standard) rfl,
    modeWrite_steps (m := .reset) rfl⟩

/-- Settles O17: `CLEAR_COMMAND` is a plan of two writes, No-op and Clear. -/
theorem clearCommandIsTwoWrites : Obligations.ClearCommandIsTwoWrites := by
  have hp : planOf .clearCommand = some opClearCommand := rfl
  exact ⟨⟨encodedAs_of_wf (i := .clearCommand) rfl, needsHandle_of_planOf hp rfl⟩,
    issuesFrame_of_planOf (f := memWrite .command [Config.cmdNop]) hp rfl,
    writeGoesOn_of_planOf hp (by decide), failureEnds_of_planOf 0 hp,
    issuesFrame_of_planOf (f := memWrite .command [Config.cmdClear]) hp rfl,
    writeEndsOk_of_planOf hp le_rfl rfl, failureEnds_of_planOf 1 hp⟩

/-- Settles O18: `FIRMWARE_VERSION` is a plan of a write and a read, and three bytes are enough for its result. -/
theorem firmwareVersionWritesThenReads : Obligations.FirmwareVersionWritesThenReads := by
  have hp : planOf .firmwareVersion = some opFirmwareVersion := rfl
  exact ⟨⟨encodedAs_of_wf (i := .firmwareVersion) rfl, needsHandle_of_planOf hp rfl⟩,
    issuesFrame_of_planOf (f := memWrite .command [Config.cmdGetFw]) hp rfl,
    writeGoesOn_of_planOf hp (by decide), failureEnds_of_planOf 0 hp,
    issuesFrame_of_planOf (f := memRead .gprRead 3) hp rfl,
    readEndsOk_of_planOf hp le_rfl fun _ _ _ _ => rfl, failureEnds_of_planOf 1 hp⟩

/-! ## The run of one transaction (R122, R123) -/

theorem runWith_succ (v : ExecVariant) (n : Nat) {s t : State} (h : stepWith v s = .next t) :
    runWith v (n + 1) s = runWith v n t := by
  simp only [runWith, h]

/-- A busy block whose host has no CANCEL listed takes a step of the operation latched, and still none is listed. -/
theorem stepWith_busy_exec (v : ExecVariant) {s : State} {i : Instr} (hb : s.seq.busy = true)
    (hd : decode s.seq.latched = .ok i) (hc : NoCancel s.host) :
    ∃ ms, NoCancel ms ∧ stepWith v s = exec i { s with host := ms } := by
  obtain ⟨rest, -, hh, -⟩ | ⟨ms, -, hsuf, he⟩ := stepBusy_cases v s
  · exact absurd (by simp [hh]) hc
  · refine ⟨ms, fun hm => hc (hsuf.subset hm), ?_⟩
    rw [stepWith, if_pos hb, he]
    exact advance_of_decode hd

/-- From `READY(k)` with an answer at hand and no CANCEL listed, two steps issue transaction `k` and take its answer.
The host's list `ms` is what the entries passed over leave of it. -/
theorem runWith_transaction (v : ExecVariant) {s : State} {i : Instr} {k : Nat} {a : DevAddr} {x : DevAddr → Txn}
    {d : Draw} {rest : List TransportMove} (hi : i.wf = true) (h : s.ReadyFor i k a)
    (hx : IssuesFrame i k x) (hc : NoCancel s.host) (ht : s.transport = .answer d :: rest) :
    ∃ ms, NoCancel ms ∧ State.Answering { s with seq := s.seq.issue (x a), host := ms } i k (x a) d rest ∧
      ∀ n t, exec i { s with seq := s.seq.issue (x a), host := ms } = .next t →
        runWith v (n + 2) s = runWith v n t := by
  obtain ⟨hb, hn, hl, hk, ha⟩ := h
  have hd : decode s.seq.latched = .ok i := hl ▸ decode_encode hi
  obtain ⟨ms, hc, hissue⟩ := stepWith_busy_exec v hb hd hc
  rw [hx { s with host := ms } a ⟨hb, hn, hl, hk, ha⟩] at hissue
  obtain ⟨ms', hc', hanswer⟩ :=
    stepWith_busy_exec v (s := { s with seq := s.seq.issue (x a), host := ms }) hb hd hc
  refine ⟨ms', hc', ⟨hb, rfl, hl, hk, ht⟩, fun n t he => ?_⟩
  exact (runWith_succ v (n + 1) hissue).trans (runWith_succ v n (hanswer.trans he))

/-- An accepted operation is in `READY(0)` (R121). -/
theorem readyFor_accepted (s : State) (i : Instr) {a : DevAddr} (ha : s.seq.devAddr = some a) :
    State.ReadyFor { s with
      seq := { s.seq with
        busy := true
        curOp := i.opcode
        curArg := i.operand
        stepIdx := 0
        rx := []
        inflight := none } } i 0 a :=
  ⟨rfl, rfl, rfl, rfl, ha⟩

/-- After its first write an operation of two transactions is in `READY(1)` (R123). -/
theorem State.Answering.readyFor_one {s : State} {i : Instr} {k : Nat} {x : Txn} {d : Draw} {a : DevAddr}
    {rest : List TransportMove} (h : s.Answering i k x d rest) (ha : s.seq.devAddr = some a) :
    State.ReadyFor { s with
      seq := { s.seq with stepIdx := 1, inflight := none, trace := s.seq.trace ++ [.doneOk] }
      transport := rest } i 1 a :=
  ⟨h.busy, rfl, h.latched, rfl, ha⟩

/-- Settles O46: ACCEPT, then the write and the read, each by `runWith_transaction` with the next states of O18. -/
theorem firmwareVersionTrace : Obligations.FirmwareVersionTrace := by
  intro v s a ms w0 w1 w2 w3 b0 b1 b2 b3 rest hb ho ha hh hc ht
  obtain ⟨⟨-, haccept⟩, hwrite, hgoesOn, -, hread, hends, -⟩ := firmwareVersionWritesThenReads
  have hd : decode 0x0800000000 = .ok .firmwareVersion := by decide
  have hstart : stepWith v s = exec .firmwareVersion { s with host := ms } :=
    (stepWith_present v hb hh).trans (acceptWord_of_decode hd _)
  rw [(haccept { s with host := ms } hb).2 ho] at hstart
  obtain ⟨ms₀, hc₀, hwait₀, hrun₀⟩ :=
    runWith_transaction v rfl (readyFor_accepted { s with host := ms } .firmwareVersion ha) hwrite hc ht
  have hdone₀ := hgoesOn _ _ _ _ _ _ _ _ hwait₀
  obtain ⟨ms₁, -, hwait₁, hrun₁⟩ :=
    runWith_transaction v rfl (hwait₀.readyFor_one ha) hread hc₀ rfl
  have hdone₁ := hends _ _ _ _ _ _ _ _ hwait₁
  have hrun := calc
    runWith v 5 s = runWith v 4 _ := runWith_succ v 4 hstart
    _ = runWith v 2 _ := hrun₀ 2 _ hdone₀
    _ = runWith v 0 _ := hrun₁ 0 _ hdone₁
  exact ⟨_, hrun, rfl, ho, ha, rfl, by simp, rfl⟩

end Sys2Proof.Machine
end

section
/-!
PROOFS. The measurement accessors (42_measurement.md): each is one read of one register and a decode of the bytes it
brought. The steps are the same for all five and stated once (`accessor_steps`); what is left to each operation is
its decode.
-/

namespace Sys2Proof.Machine

/-- `ACCESSOR` (R87): one read of `n` bytes from `reg`, which ends the operation with the decode of the bytes or with
the error. -/
theorem accessor_steps {i : Instr} {op : Byte} {reg : DevReg} {n : Nat} {dec : List Byte → Option OpResult}
    {res : Byte → Byte → Byte → Byte → OpResult} (henc : EncodedAs i op 0 0xFFFFFFFF)
    (hp : planOf i = some (accessor i reg n dec))
    (hdec : ∀ b0 b1 b2 b3, dec ([b0, b1, b2, b3].take n) = some (res b0 b1 b2 b3)) :
    H0WithHandle i op ∧ IssuesFrame i 0 (fun a => .wr a [reg.addr] n) ∧ ReadEndsOk i 0 n res ∧ FailureEnds i 0 :=
  ⟨⟨henc, needsHandle_of_planOf hp rfl⟩, issuesFrame_of_planOf (f := memRead reg n) hp rfl,
    readEndsOk_of_planOf hp le_rfl hdec, failureEnds_of_planOf 0 hp⟩

/-! ## The decodes of one byte (R90, R109, R110) -/

/-- Each validity from the two bits of its code (R66, R110). -/
theorem validityDecode_eq (c : BitVec 2) : validityDecode c =
    if c.getLsbD 1 then (if c.getLsbD 0 then .invalidOutput else .initStartupPhase)
    else (if c.getLsbD 0 then .warmupPhase else .normalOperation) := by
  revert c
  decide

/-- Each field of a status byte from its own bits (R109). -/
theorem statusDecode_eq (x : Byte) : statusDecode x =
    { runningNormally := x.getLsbD 7
      error := x.getLsbD 6
      validity :=
        if x.getLsbD 3 then (if x.getLsbD 2 then .invalidOutput else .initStartupPhase)
        else (if x.getLsbD 2 then .warmupPhase else .normalOperation)
      dataReady := x.getLsbD 1
      newDataInGpr := x.getLsbD 0 } := by
  simp [statusDecode, validityDecode_eq]

/-- The mask of R90 keeps the low 3 bits. -/
theorem toNat_and_seven (x : Byte) : (x &&& 0x07).toNat = x.toNat % 8 :=
  Nat.and_two_pow_sub_one_eq_mod x.toNat 3

/-- The category of each ordinal, and the fallback (R90). -/
theorem aqiFromReg_eq (x : Byte) : aqiFromReg x =
    if x.toNat % 8 = 1 then .excellent
    else if x.toNat % 8 = 2 then .good
    else if x.toNat % 8 = 3 then .moderate
    else if x.toNat % 8 = 4 then .poor
    else .unhealthy := by
  rw [aqiFromReg, toNat_and_seven]
  split <;> simp_all

/-! ## The decode of two bytes (R9, R41) -/

theorem toNat_le16 (lo hi : Byte) : (le16 lo hi).toNat = lo.toNat + 256 * hi.toNat := by
  have hlo : (lo.setWidth 16).toNat = lo.toNat := BitVec.toNat_setWidth_of_le (by decide)
  obtain ⟨e, -⟩ := toNat_or_field (x := lo.setWidth 16) (n := 8) hi (hlo.trans_lt lo.isLt) (by decide)
  rwa [hlo] at e

theorem le16_eq_ofNat (lo hi : Byte) : le16 lo hi = BitVec.ofNat 16 (lo.toNat + 256 * hi.toNat) := by
  rw [← toNat_le16, BitVec.ofNat_toNat, BitVec.setWidth_eq]

/-- Two bytes are enough for a count, and the low one comes first (R91, R92). -/
theorem finishCount_eq (b0 b1 : Byte) :
    finishCount [b0, b1] = some (.count (BitVec.ofNat 16 (b0.toNat + 256 * b1.toNat))) := by
  rw [finishCount, le16_eq_ofNat]

/-! ## The conversions of raw values (R95, R97) -/

/-- On naturals the truncating division of R10 is the division of naturals. -/
theorem tdiv_natCast (a b : Nat) : tdiv a b = (a / b : Nat) := by
  rw [tdiv, if_pos (Int.natCast_nonneg a), Int.natCast_ediv]

theorem tempRawToScaled_natCast (r : Nat) : tempRawToScaled r = (r * 100 / 64 : Nat) - 27315 :=
  congrArg (· - 27315) (tdiv_natCast (r * 100) 64)

theorem humRawToScaled_natCast (r : Nat) : humRawToScaled r = (r * 100 / 512 : Nat) :=
  tdiv_natCast (r * 100) 512

/-- No temperature of a 16-bit raw value is cut when it is carried as a signed 32-bit value (R100). -/
theorem toInt_ofInt_tempRawToScaled {r : Nat} (hr : r < 2 ^ 16) :
    (BitVec.ofInt 32 (tempRawToScaled r)).toInt = (r * 100 / 64 : Nat) - 27315 := by
  rw [tempRawToScaled_natCast]
  exact BitVec.toInt_ofInt_eq_self (by decide) (by omega) (by omega)

/-- No humidity of a 16-bit raw value is cut when it is carried as a 16-bit value (R100). -/
theorem toNat_ofInt_humRawToScaled {r : Nat} (hr : r < 2 ^ 16) :
    (BitVec.ofInt 16 (humRawToScaled r)).toNat = r * 100 / 512 := by
  rw [humRawToScaled_natCast, BitVec.ofInt_natCast]
  exact (BitVec.toNat_ofNat _ _).trans (Nat.mod_eq_of_lt (by omega))

/-! ## The operations (R88 to R93) -/

/-- Settles O19: the read of the status register, decoded as `statusDecode_eq` says. -/
theorem statusReadsAndDecodes : Obligations.StatusReadsAndDecodes :=
  accessor_steps (encodedAs_of_wf (i := .status) rfl) rfl
    fun b0 _ _ _ => congrArg (some ∘ OpResult.status) (statusDecode_eq b0)

/-- Settles O20: the read of the AQI register, decoded as `aqiFromReg_eq` says. -/
theorem airqualityIndexReadsAndMasks : Obligations.AirqualityIndexReadsAndMasks :=
  accessor_steps (encodedAs_of_wf (i := .airqualityIndex) rfl) rfl
    fun b0 _ _ _ => congrArg (some ∘ OpResult.aqi) (aqiFromReg_eq b0)

/-- Settles O21: the read of the TVOC register, decoded as `finishCount_eq` says. -/
theorem tvocReadsCount : Obligations.TvocReadsCount :=
  accessor_steps (encodedAs_of_wf (i := .tvoc) rfl) rfl fun b0 b1 _ _ => finishCount_eq b0 b1

/-- Settles O22: the read of the eCO2 register, decoded as `finishCount_eq` says. -/
theorem eco2ReadsValue : Obligations.Eco2ReadsValue :=
  accessor_steps (encodedAs_of_wf (i := .eco2) rfl) rfl fun b0 b1 _ _ => finishCount_eq b0 b1

/-- Settles O23: the two functions are the model's conversions of `le16`; a 16-bit raw value bounds both. -/
theorem tempAndHumReadsAndConverts : Obligations.TempAndHumReadsAndConverts := by
  obtain ⟨hhandle, hissue, hread, hfail⟩ := accessor_steps (encodedAs_of_wf (i := .tempAndHum) rfl) rfl
    fun b0 b1 b2 b3 => (rfl : finishTempHum [b0, b1, b2, b3] = some _)
  refine ⟨hhandle, hissue, ⟨_, _, hread, fun lo hi => ?_, fun lo hi => ?_⟩, hfail⟩
  · have hr := (le16 lo hi).isLt
    rw [toInt_ofInt_tempRawToScaled hr, ← toNat_le16]
    omega
  · have hr := (le16 lo hi).isLt
    rw [toNat_ofInt_humRawToScaled hr, ← toNat_le16]
    omega

end Sys2Proof.Machine
end

section
/-!
PROOFS. The conversions (43_conversion.md): the exactness of the converter, the two operations that write a
compensation value, and `ECO2_TO_AQI`. The converter is reduced once to the division of naturals, or to the library's
truncating division where a dividend may be negative; the two setters are one plan (`compensationWrite`), whose steps
and refusal are stated once.
-/

namespace Sys2Proof.Machine

/-! ## The truncating division (R10, R103) -/

/-- The division of R10 is the library's division truncating toward zero. -/
theorem tdiv_eq_tdiv (a b : Int) : tdiv a b = a.tdiv b := by
  unfold tdiv
  split
  · next ha => exact (Int.tdiv_eq_ediv_of_nonneg ha).symm
  · next ha => rw [← Int.tdiv_eq_ediv_of_nonneg (by omega), Int.neg_tdiv, neg_neg]

/-- A positive common factor cancels (R103). -/
theorem tdiv_mul_mul_right (a b : Int) {k : Int} (hk : 0 < k) : tdiv (a * k) (b * k) = tdiv a b := by
  rw [tdiv_eq_tdiv, tdiv_eq_tdiv, Int.mul_tdiv_mul_of_pos_left _ _ hk]

/-- A division by a power of two is a shift (R103). -/
theorem tdiv_two_pow (a k : Nat) : tdiv a (2 ^ k : Nat) = (a >>> k : Nat) := by
  rw [tdiv_natCast, Nat.shiftRight_eq_div_pow]

/-- Settles O51: the factor 4 cancels in all four, and the shifts are divisions by 16 and by 128. -/
theorem equivalentHardwareForms : Obligations.EquivalentHardwareForms := by
  have cancel4 (a b : Int) : tdiv (a * 4) (b * 4) = tdiv a b := tdiv_mul_mul_right a b (by decide)
  refine ⟨fun r => ?_, fun r => ?_, fun t => ?_, fun u => ?_⟩
  · simpa [mul_assoc] using (cancel4 (r * 25 : Nat) (2 ^ 4 : Nat)).trans (tdiv_two_pow (r * 25) 4)
  · simpa [mul_assoc] using (cancel4 (r * 25 : Nat) (2 ^ 7 : Nat)).trans (tdiv_two_pow (r * 25) 7)
  · simpa [mul_assoc] using cancel4 ((t + 27315) * 16) 25
  · simpa [mul_assoc] using cancel4 (u * 128) 25

/-! ## The conversions of scaled values (R96, R98) -/

/-- A temperature at or above -273.15 degrees has a natural as its dividend. -/
theorem tempScaledToRaw_natCast_sub (n : Nat) : tempScaledToRaw (n - 27315) = (n * 64 / 100 : Nat) := by
  rw [tempScaledToRaw, sub_add_cancel]
  exact tdiv_natCast (n * 64) 100

theorem humScaledToRaw_natCast (u : Nat) : humScaledToRaw u = (u * 512 / 100 : Nat) :=
  tdiv_natCast (u * 512) 100

/-- The temperatures whose raw value fits; -27316 is one of them, for its quotient is truncated to 0 (R96). -/
theorem tempScaledToRaw_fits_iff (t : Int) :
    0 ≤ tempScaledToRaw t ∧ tempScaledToRaw t ≤ 65535 ↔ -27316 ≤ t ∧ t ≤ 75084 := by
  unfold tempScaledToRaw tdiv
  split <;> omega

/-- The humidities whose raw value fits (R98). -/
theorem humScaledToRaw_fits_iff (u : Nat) : 0 ≤ humScaledToRaw u ∧ humScaledToRaw u ≤ 65535 ↔ u ≤ 12799 := by
  rw [humScaledToRaw_natCast]
  omega

/-! ## The formulas (R95 to R98) -/

/-- Settles O47: `tdiv_eq_tdiv` for the formulas, and the worked values evaluated. -/
theorem temperatureFormulas : Obligations.TemperatureFormulas := by
  refine ⟨fun r hr => ⟨congrArg (· - 27315) (tdiv_eq_tdiv _ _), ?_⟩,
    fun t => ⟨tdiv_eq_tdiv _ _, tempScaledToRaw_fits_iff t⟩, by decide, by decide⟩
  rw [tempRawToScaled_natCast]
  omega

/-- Settles O48: `tdiv_eq_tdiv` for the formulas, and the worked values evaluated. -/
theorem humidityFormulas : Obligations.HumidityFormulas := by
  refine ⟨fun r hr => ⟨tdiv_eq_tdiv _ _, ?_⟩,
    fun u => ⟨tdiv_eq_tdiv _ _, humScaledToRaw_fits_iff u⟩, by decide, by decide⟩
  rw [humRawToScaled_natCast]
  omega

/-! ## The round trips (R101, R102) -/

theorem tempScaledToRaw_tempRawToScaled (r : Nat) :
    tempScaledToRaw (tempRawToScaled r) = (r * 100 / 64 * 64 / 100 : Nat) := by
  rw [tempRawToScaled_natCast, tempScaledToRaw_natCast_sub]

theorem tempRawToScaled_tempScaledToRaw (n : Nat) :
    tempRawToScaled (tempScaledToRaw (n - 27315)) = (n * 64 / 100 * 100 / 64 : Nat) - 27315 := by
  rw [tempScaledToRaw_natCast_sub, tempRawToScaled_natCast]

theorem humScaledToRaw_humRawToScaled (r : Nat) :
    humScaledToRaw (humRawToScaled r) = (r * 100 / 512 * 512 / 100 : Nat) := by
  rw [humRawToScaled_natCast, humScaledToRaw_natCast]

theorem humRawToScaled_humScaledToRaw (u : Nat) :
    humRawToScaled (humScaledToRaw u) = (u * 512 / 100 * 100 / 512 : Nat) := by
  rw [humScaledToRaw_natCast, humRawToScaled_natCast]

/-- Settles O49: each round trip is two divisions of naturals; a scaled temperature is counted from -27315. -/
theorem temperatureRoundTrip : Obligations.TemperatureRoundTrip := by
  refine ⟨fun r _ => ?_, fun t hlo _ => ?_⟩
  · rw [tempScaledToRaw_tempRawToScaled]
    split
    · omega
    · have hinexact : r * 100 % 64 ≠ 0 := by omega
      omega
  · obtain ⟨n, hn⟩ := Int.eq_ofNat_of_zero_le (show 0 ≤ t + 27315 by omega)
    obtain rfl : t = n - 27315 := by omega
    rw [tempRawToScaled_tempScaledToRaw]
    omega

/-- Settles O50: each round trip is two divisions of naturals. -/
theorem humidityRoundTrip : Obligations.HumidityRoundTrip := by
  refine ⟨fun r _ => ?_, fun u _ => ?_⟩
  · rw [humScaledToRaw_humRawToScaled]
    omega
  · rw [humRawToScaled_humScaledToRaw]
    omega

/-! ## The plan of the two setters (R104, R105, R107) -/

/-- ACCEPT with a handle of an operand whose raw value does not fit: refused, with nothing latched (R107). -/
theorem rangeRefused_of_planOf {i : Instr} {p : BusOp} {s : State} (hp : planOf i = some p)
    (hr : ¬ p.inRange = true) (hb : s.seq.busy = false) (ho : s.seq.owned = true) :
    RefusedWith i .operandRange s := by
  show exec i s = .next (s.abnormalEnd (.refuse .operandRange))
  rw [exec_of_planOf hp, runBus_idle p hb]
  simp [acceptBus, Ownership.refusal, ho, hr]

/-- The range check of `SET_TEMP` is the domain of R107. -/
theorem inRange_opSetTemp_iff (t : Int) : (opSetTemp t).inRange = true ↔ -27316 ≤ t ∧ t ≤ 75084 :=
  decide_eq_true_iff.trans (tempScaledToRaw_fits_iff t)

/-- The range check of `SET_HUM` is the domain of R107. -/
theorem inRange_opSetHum_iff (u : Nat) : (opSetHum u).inRange = true ↔ u ≤ 12799 :=
  decide_eq_true_iff.trans (humScaledToRaw_fits_iff u)

/-- The two bytes of a 16-bit value, low byte first (R41). -/
theorem toNat_bytesLe16 (v : Half) :
    (v.extractLsb' 0 8).toNat + 256 * (v.extractLsb' 8 8).toNat = v.toNat := by
  have := v.isLt
  simp only [BitVec.extractLsb'_toNat, Nat.shiftRight_eq_div_pow]
  omega

/-- A raw value that fits is not cut when it is carried as 16 bits (R107). -/
theorem toNat_ofInt_of_fitsRaw {raw : Int} (h : fitsRaw raw = true) :
    ((BitVec.ofInt 16 raw).toNat : Int) = raw := by
  obtain ⟨hlo, hhi⟩ := of_decide_eq_true h
  rw [BitVec.toNat_ofInt]
  omega

/-- The steps of a write of a compensation value in its domain: one frame, its payload the raw value, low byte
first. -/
theorem compensationWrite_steps {i : Instr} {reg : DevReg} {raw : Int}
    (hp : planOf i = some (compensationWrite i reg raw)) (hr : fitsRaw raw = true) :
    NeedsHandle i ∧
    (∃ lo hi : Byte, IssuesFrame i 0 (fun a => .w a [reg.addr, lo, hi]) ∧
      ((lo.toNat + 256 * hi.toNat : Nat) : Int) = raw) ∧
    WriteEndsOk i 0 ∧ FailureEnds i 0 :=
  ⟨needsHandle_of_planOf hp hr,
    ⟨_, _, issuesFrame_of_planOf (f := memWrite reg (rawPayload raw)) hp rfl,
      (congrArg _ (toNat_bytesLe16 _)).trans (toNat_ofInt_of_fitsRaw hr)⟩,
    writeEndsOk_of_planOf hp le_rfl rfl, failureEnds_of_planOf 0 hp⟩

/-! ## SET_TEMP and SET_HUM (R104, R105, R107) -/

theorem setTemp_refused {t : Int} {s : State} (hb : s.seq.busy = false) (ho : s.seq.owned = true)
    (ht : t < -27316 ∨ 75084 < t) : RefusedWith (.setTemp t) .operandRange s :=
  rangeRefused_of_planOf (p := opSetTemp t) rfl (mt (inRange_opSetTemp_iff t).mp (by omega)) hb ho

theorem setHum_refused {u : Nat} {s : State} (hb : s.seq.busy = false) (ho : s.seq.owned = true) (hu : 12799 < u) :
    RefusedWith (.setHum u) .operandRange s :=
  rangeRefused_of_planOf (p := opSetHum u) rfl (mt (inRange_opSetHum_iff u).mp (by omega)) hb ho

/-- Settles O13: the range check of either plan is the domain of its operand. -/
theorem compensationOperandDomain : Obligations.CompensationOperandDomain := by
  refine ⟨fun t s hb ho => ⟨fun ht => ?_, setTemp_refused hb ho⟩,
    fun u s hb ho => ⟨fun hu => ?_, setHum_refused hb ho⟩⟩
  · obtain ⟨-, haccept⟩ := needsHandle_of_planOf (i := .setTemp t) rfl ((inRange_opSetTemp_iff t).mpr ht) s hb
    exact haccept ho
  · obtain ⟨-, haccept⟩ := needsHandle_of_planOf (i := .setHum u) rfl ((inRange_opSetHum_iff u).mpr hu) s hb
    exact haccept ho

/-- Settles O24: the plan of `SET_TEMP` is a write of a compensation value; every operand word is legal. -/
theorem setTempWritesRaw : Obligations.SetTempWritesRaw := by
  refine ⟨decode_cmdWord 0x0E, fun t s => noHandleRefused (.setTemp t) s rfl,
    fun t s => setTemp_refused, fun t hlo hhi => ?_⟩
  rw [← tdiv_eq_tdiv]
  exact compensationWrite_steps (reg := .tempIn) rfl ((inRange_opSetTemp_iff t).mpr ⟨hlo, hhi⟩)

/-- Settles O25: the plan of `SET_HUM` is a write of a compensation value, and a 16-bit operand is well-formed. -/
theorem setHumWritesRaw : Obligations.SetHumWritesRaw := by
  refine ⟨fun u hu => encodedAs_of_wf (i := .setHum u) (decide_eq_true hu),
    fun u s => noHandleRefused (.setHum u) s rfl, fun u s => setHum_refused, fun u hu => ?_⟩
  obtain ⟨hhandle, ⟨lo, hi, hissue, hraw⟩, hends⟩ :=
    compensationWrite_steps (i := .setHum u) (reg := .rhIn) rfl ((inRange_opSetHum_iff u).mpr hu)
  rw [humScaledToRaw_natCast] at hraw
  exact ⟨hhandle, ⟨lo, hi, hissue, Int.ofNat_inj.mp hraw⟩, hends⟩

/-! ## ECO2_TO_AQI (R99, R106) -/

/-- The response of each range of the chain of R99. -/
theorem classify_eq_respond (v : Nat) (s : State) : classify v s = s.respond
    (if v < 400 then .convError (BitVec.ofNat 16 v)
     else if v ≤ 599 then .ok (.aqi .excellent)
     else if v ≤ 799 then .ok (.aqi .good)
     else if v ≤ 999 then .ok (.aqi .moderate)
     else if v ≤ 1499 then .ok (.aqi .poor)
     else .ok (.aqi .unhealthy)) := by
  unfold classify eco2Aqi
  split_ifs <;> rfl

/-- Settles O27: no ownership check stands before `classify`. -/
theorem eco2ToAqiClassifies : Obligations.Eco2ToAqiClassifies := by
  refine ⟨fun v hv => encodedAs_of_wf (i := .eco2ToAqi v) (decide_eq_true hv), fun v s _ hb => ?_⟩
  rw [exec_eco2ToAqi, runNow_of_no_refusal _ hb rfl, classify_eq_respond]
  rfl

end Sys2Proof.Machine
end

section
/-!
PROOFS. The bit-codec (44_bitcodec.md): the status decoder does not see bits 5 and 4, and the configuration encoder
has an inverse on the bytes whose bits 7, 4 and 2 are zero, from which its injectivity and its range are read off.
-/

namespace Sys2Proof.Machine

/-! ## The status decoder (R109, R111) -/

/-- The mask of R111 keeps every bit but 5 and 4. -/
theorem getLsbD_and_statusMask (x : Byte) {j : Nat} (hj : j ∈ [0, 1, 2, 3, 6, 7]) :
    (x &&& 0xCF).getLsbD j = x.getLsbD j := by
  have hmask : ∀ k ∈ [0, 1, 2, 3, 6, 7], (0xCF : Byte).getLsbD k = true := by decide
  rw [BitVec.getLsbD_and, hmask j hj, Bool.and_true]

/-- Settles O52: the six bits that the fields of a status byte read pass the mask. -/
theorem statusDecodeVectors : Obligations.StatusDecodeVectors := by
  refine ⟨fun x => ?_, rfl, rfl, rfl⟩
  simp (disch := decide) only [statusDecode_eq, getLsbD_and_statusMask]

/-! ## The configuration encoder (R113, R116, R117) -/

theorem Polarity.ofBit_bit (p : Polarity) : Polarity.ofBit p.bit = p := by cases p <;> rfl

theorem Polarity.bit_ofBit (b : Bool) : (Polarity.ofBit b).bit = b := by cases b <;> rfl

theorem Drive.ofBit_bit (m : Drive) : Drive.ofBit m.bit = m := by cases m <;> rfl

theorem Drive.bit_ofBit (b : Bool) : (Drive.ofBit b).bit = b := by cases b <;> rfl

/-- The record whose fields are the bits of a configuration byte: the inverse of `intcfgEncode` on its range, as R117
allows a proof to define it. -/
def intcfgOfByte (y : Byte) : IntCfg where
  en := y.getLsbD 0
  onDrdy := y.getLsbD 1
  onGpr := y.getLsbD 3
  polarity := .ofBit (y.getLsbD 6)
  drive := .ofBit (y.getLsbD 5)

theorem intcfgOfByte_leftInverse : Function.LeftInverse intcfgOfByte intcfgEncode := fun c => by
  simp (disch := decide) [intcfgOfByte, getLsbD_intcfgEncode, Polarity.ofBit_bit, Drive.ofBit_bit,
    -BitVec.getLsbD_eq_getElem]

/-- The reserved bits of a byte that passes the check of R113 are 0. -/
theorem getLsbD_of_and_reserved {y : Byte} (hy : y &&& 0x94 = 0) {j : Nat} (hj : j ∈ [2, 4, 7]) :
    y.getLsbD j = false := by
  have hmask : ∀ k ∈ [2, 4, 7], (0x94 : Byte).getLsbD k = true := by decide
  have hbit : (y &&& 0x94).getLsbD j = false := by rw [hy]; exact BitVec.getLsbD_zero
  rwa [BitVec.getLsbD_and, hmask j hj, Bool.and_true] at hbit

/-- Bit by bit: a reserved bit is 0 on both sides, every other bit is the field read from it. -/
theorem intcfgEncode_intcfgOfByte {y : Byte} (hy : y &&& 0x94 = 0) : intcfgEncode (intcfgOfByte y) = y := by
  refine BitVec.eq_of_getLsbD_eq fun j hj => ?_
  rw [getLsbD_intcfgEncode _ hj]
  interval_cases j <;>
    simp [intcfgOfByte, Polarity.bit_ofBit, Drive.bit_ofBit, getLsbD_of_and_reserved hy, -BitVec.getLsbD_eq_getElem]

/-- A field put above the bits that `x` keeps to adds its value at its position (R116). -/
theorem toNat_or_fieldAt {x : Byte} {n pos : Nat} (b : Bool) (hx : x.toNat < 2 ^ n)
    (hn : n ≤ pos := by decide) (hpos : pos + 1 ≤ 8 := by decide) :
    (x ||| fieldAt b pos).toNat = x.toNat + 2 ^ pos * b.toNat ∧ (x ||| fieldAt b pos).toNat < 2 ^ (pos + 1) := by
  have hadd := toNat_or_field (.ofBool b) (hx.trans_le (Nat.pow_le_pow_right Nat.two_pos hn)) hpos
  rwa [BitVec.toNat_ofBool] at hadd

/-- The byte as the sum of the five contributions (R116), which are put one above the other. -/
theorem toNat_intcfgEncode (c : IntCfg) : (intcfgEncode c).toNat =
    c.en.toNat + 2 * c.onDrdy.toNat + 8 * c.onGpr.toNat + 32 * c.drive.bit.toNat + 64 * c.polarity.bit.toNat := by
  have hbase : (0x00 : Byte).toNat < 2 ^ 0 := by decide
  obtain ⟨e0, h0⟩ := toNat_or_fieldAt (pos := 0) c.en hbase
  obtain ⟨e1, h1⟩ := toNat_or_fieldAt (pos := 1) c.onDrdy h0
  obtain ⟨e3, h3⟩ := toNat_or_fieldAt (pos := 3) c.onGpr h1
  obtain ⟨e5, h5⟩ := toNat_or_fieldAt (pos := 5) c.drive.bit h3
  obtain ⟨e6, -⟩ := toNat_or_fieldAt (pos := 6) c.polarity.bit h5
  rw [intcfgEncode, e6, e5, e3, e1, e0]
  simp

theorem toNat_intcfgEncode_le (c : IntCfg) : (intcfgEncode c).toNat ≤ 0x6B := by
  have hbit := Bool.toNat_le
  rw [toNat_intcfgEncode]
  linarith [hbit c.en, hbit c.onDrdy, hbit c.onGpr, hbit c.drive.bit, hbit c.polarity.bit]

/-- Settles O53: the sum gives the value and the bound, the inverse gives the injectivity and the range. -/
theorem intcfgEncodeInjective : Obligations.IntcfgEncodeInjective := by
  refine ⟨fun c => ?_, fun c c' h => intcfgOfByte_leftInverse.injective h, fun y => ⟨?_, fun hy => ?_⟩,
    toNat_intcfgEncode_le, rfl, rfl, rfl, rfl, rfl, rfl⟩
  · rw [toNat_intcfgEncode, Drive.bit_eq_decide, Polarity.bit_eq_decide]
  · rintro ⟨c, rfl⟩
    exact intcfgEncode_and_reserved c
  · exact ⟨intcfgOfByte y, intcfgEncode_intcfgOfByte hy⟩

end Sys2Proof.Machine
end

section
/-!
PROOFS. The execution model (45_execution_model.md): what the host's next move makes of a step, the two variants side
by side, and an operation as a whole. One round of ISSUE and COMPLETE follows one turn of the loop of `run` (R132), so
a run of the machine and `runFrames` go over the plan together.
-/

namespace Sys2Proof.Machine

/-! ## The step under each move of the host (R120, R124) -/

/-- With no CANCEL listed a step does not read the variant. -/
theorem stepWith_eq_of_noCancel {s : State} (hc : NoCancel s.host) (v w : ExecVariant) :
    stepWith v s = stepWith w s := by
  simp only [stepWith, stepBusy]
  split
  · split
    · exact absurd (by simp [‹s.host = _›]) hc
    · rfl
    · rfl
    · rfl
  · rfl

/-- A step takes moves off the front of the host's list, or leaves it. -/
theorem step_host_suffix {v : ExecVariant} {s t : State} (h : stepWith v s = .next t) : t.host <:+ s.host := by
  obtain ⟨rest, -, -, hh, rfl⟩ | ⟨ms, i, -, -, hsuf, -, he⟩ | ⟨cw, rest, i, -, hh, -, he⟩ |
    ⟨cw, rest, e, -, hh, -, rfl⟩ | ⟨ms, -, hsuf, rfl⟩ := step_cases h
  · simp [hh]
  · obtain ⟨rs, -, -, -, hhost⟩ := exec_move he
    exact hhost ▸ hsuf
  · obtain ⟨rs, -, -, -, hhost⟩ := exec_move he
    simp [hhost, hh]
  · simp [hh]
  · exact hsuf

theorem NoCancel.step {v : ExecVariant} {s t : State} (hc : NoCancel s.host) (h : stepWith v s = .next t) :
    NoCancel t.host := fun hm => hc ((step_host_suffix h).subset hm)

/-- Settles O31: by induction on the number of steps; one step does not read the variant, and still no CANCEL is
listed after it. -/
theorem variantsAgreeWithoutCancel : Obligations.VariantsAgreeWithoutCancel := by
  intro n
  induction n with
  | zero => exact fun _ _ => rfl
  | succ n ih =>
    intro s hc
    have hstep := stepWith_eq_of_noCancel hc .blocking .suspending
    cases h : stepWith .suspending s with
    | next t => simpa only [runWith, hstep, h] using ih t (hc.step h)
    | fault r => simp only [runWith, hstep, h]
    | refused r => simp only [runWith, hstep, h]

/-! ## The loop of `run` (R132) -/

theorem wf_of_decode {cw : CmdWord} {i : Instr} (h : decode cw = .ok i) : i.wf = true := wf_of_decodeFields h

/-- The bytes in `S.rx` once the frame is answered with success: a write leaves them, a read brings its own (R123). -/
def Frame.received (rx : List Byte) (b0 b1 b2 b3 : Byte) : Frame → List Byte
  | .w _ _ => rx
  | .r _ n => [b0, b1, b2, b3].take n

/-- A failure stops the loop. -/
theorem runFrames_failure (p : BusOp) (a : DevAddr) (f : Frame) (fs : List Frame) (rx : List Byte) (e : TErr)
    (ds : List Draw) : runFrames p a (f :: fs) rx (.failure e :: ds) = ([f.txn a], some (.busError e)) := rfl

/-- A success goes on with the frames left, or ends with the result. -/
theorem runFrames_success (p : BusOp) (a : DevAddr) (f : Frame) (fs : List Frame) (rx : List Byte)
    (b0 b1 b2 b3 : Byte) (ds : List Draw) : runFrames p a (f :: fs) rx (.success b0 b1 b2 b3 :: ds) =
      (f.txn a :: (runFrames p a fs (f.received rx b0 b1 b2 b3) ds).1,
        (runFrames p a fs (f.received rx b0 b1 b2 b3) ds).2) := by
  cases f <;> rfl

/-- COMPLETE with success records the bytes that the loop goes on with (R123). -/
theorem completeTxn_success (p : BusOp) (s : State) (f : Frame) (a : DevAddr) (b0 b1 b2 b3 : Byte) :
    ∃ e, (∀ x, e ≠ Event.issue x) ∧ completeTxn p s ((f.txn a).answer (.success b0 b1 b2 b3)) =
      afterSuccess p (s.withSeq ((s.seq.receive (f.received s.seq.rx b0 b1 b2 b3)).close e)) := by
  cases f with
  | w reg payload => exact ⟨.doneOk, by simp, rfl⟩
  | r reg n => exact ⟨.doneBytes _, by simp, rfl⟩

/-- A success of the last transaction of a plan is enough for its result (R126). -/
theorem BusOp.Sound.finish_success {p : BusOp} {f : Frame} (hs : p.Sound) (hf : p.frames.getLast? = some f)
    (rx : List Byte) (b0 b1 b2 b3 : Byte) : ∃ r, p.finish (f.received rx b0 b1 b2 b3) = some r := by
  cases f with
  | w reg payload => exact hs.finish_write reg payload hf rx
  | r reg n =>
    have := hs.read_le reg n (List.mem_of_getLast? hf)
    exact hs.finish_read reg n hf _ (by simp [Frame.received]; omega)

theorem afterSuccess_of_lt {p : BusOp} {s : State} (hk : s.seq.stepIdx.toNat + 1 < p.nsteps) :
    afterSuccess p s = .next (s.withSeq s.seq.nextTxn) := if_pos hk

theorem afterSuccess_of_last {p : BusOp} {s : State} {r : OpResult} (hk : ¬ s.seq.stepIdx.toNat + 1 < p.nsteps)
    (hf : p.finish s.seq.rx = some r) : afterSuccess p s = .next ((s.withSeq s.seq.endOp).respond (.ok r)) := by
  simp only [afterSuccess, if_neg hk, hf]

theorem BusOp.drop_of_getElem? {p : BusOp} {k : Nat} {f : Frame} (h : p.frames[k]? = some f) :
    p.frames.drop k = f :: p.frames.drop (k + 1) := by
  obtain ⟨hk, rfl⟩ := List.getElem?_eq_some_iff.mp h
  exact List.drop_eq_getElem_cons hk

/-- The first of the frames left is frame `k`, and the count of the rest tells whether it is the last. -/
theorem BusOp.frames_of_drop {p : BusOp} {k : Nat} {f : Frame} {fs : List Frame} (h : p.frames.drop k = f :: fs) :
    p.frames[k]? = some f ∧ p.frames.drop (k + 1) = fs ∧ p.nsteps = k + 1 + fs.length := by
  have hf : p.frames[k]? = some f := by simpa [h] using (List.getElem?_drop (xs := p.frames) (i := k) (j := 0)).symm
  have hfs : p.frames.drop (k + 1) = fs := by simpa [h, eq_comm] using BusOp.drop_of_getElem? hf
  obtain ⟨hk, -⟩ := List.getElem?_eq_some_iff.mp hf
  have hlen := congrArg List.length hfs
  rw [List.length_drop] at hlen
  exact ⟨hf, hfs, by unfold BusOp.nsteps; omega⟩

/-! ## An operation as a whole (R131, R132) -/

/-- In `n` steps the operation in progress ends, having issued `xs` and responded `r`. -/
def RunEnds (v : ExecVariant) (n : Nat) (s : State) (xs : List Txn) (r : Response) : Prop :=
  ∃ t, runWith v n s = .next t ∧ t.seq.busy = false ∧ issued t.seq.trace = issued s.seq.trace ++ xs ∧
    t.responses = s.responses ++ [r]

/-- Steps that lead to `t` and issue `xs` on the way come before the run from `t`. -/
theorem RunEnds.of_run {v : ExecVariant} {n m : Nat} {s t : State} {xs ys : List Txn} {r : Response}
    (h : RunEnds v n t ys r) (hrun : runWith v m s = runWith v n t)
    (htrace : issued t.seq.trace = issued s.seq.trace ++ xs) (hresp : t.responses = s.responses) :
    RunEnds v m s (xs ++ ys) r := by
  obtain ⟨t', hrun', hb, htrace', hresp'⟩ := h
  exact ⟨t', hrun.trans hrun', hb, by rw [htrace', htrace, List.append_assoc], by rw [hresp', hresp]⟩

/-- COMPLETE is one turn of the loop of `run`: it ends the operation with the loop's response, or leaves it in
`READY(k + 1)` with the rest of the loop to go. -/
theorem exec_answering_run {i : Instr} {p : BusOp} {s : State} {k : Nat} {a : DevAddr} {f : Frame} {fs : List Frame}
    {d : Draw} {ds : List Draw} {rest : List TransportMove} {ys : List Txn} {r : Response}
    (hp : planOf i = some p) (hfs : p.frames.drop k = f :: fs) (h : s.Answering i k (f.txn a) d rest)
    (ha : s.seq.devAddr = some a) (hrun : runFrames p a (f :: fs) s.seq.rx (d :: ds) = (ys, some r)) :
    ∃ xs t, ys = f.txn a :: xs ∧ exec i s = .next t ∧ issued t.seq.trace = issued s.seq.trace ∧
      ((xs = [] ∧ t.seq.busy = false ∧ t.responses = s.responses ++ [r]) ∨
       (fs ≠ [] ∧ runFrames p a fs t.seq.rx ds = (xs, some r) ∧ t.ReadyFor i (k + 1) a ∧ t.host = s.host ∧
        t.transport = rest ∧ t.responses = s.responses)) := by
  obtain ⟨-, -, hn⟩ := BusOp.frames_of_drop hfs
  cases d with
  | failure e =>
    rw [runFrames_failure] at hrun
    cases hrun
    exact ⟨[], _, rfl, failureEnds_of_planOf k hp s _ e rest h, issued_append_of_ne (by simp) _, .inl ⟨rfl, rfl, rfl⟩⟩
  | success b0 b1 b2 b3 =>
    obtain ⟨e, hne, hcomplete⟩ := completeTxn_success p { s with transport := rest } f a b0 b1 b2 b3
    rw [← exec_answering hp h] at hcomplete
    rw [runFrames_success] at hrun
    obtain ⟨rfl, hr⟩ := Prod.mk.inj hrun
    cases fs with
    | nil =>
      obtain ⟨res, hfin, rfl⟩ := Option.map_eq_some_iff.mp hr
      have hlast : ¬ s.seq.stepIdx.toNat + 1 < p.nsteps := by simp [h.step, hn]
      exact ⟨_, _, rfl, hcomplete.trans (afterSuccess_of_last hlast hfin), issued_append_of_ne hne _,
        .inl ⟨rfl, rfl, rfl⟩⟩
    | cons g gs =>
      have hmore : s.seq.stepIdx.toNat + 1 < p.nsteps := by simp [h.step, hn]
      have hstep := stepIdx_succ_toNat (sound_of_planOf hp) hmore
      exact ⟨_, _, rfl, hcomplete.trans (afterSuccess_of_lt hmore), issued_append_of_ne hne _,
        .inr ⟨by simp, Prod.ext rfl hr, ⟨h.busy, rfl, h.latched, by rw [← h.step]; exact hstep, ha⟩, rfl, rfl, rfl⟩⟩

/-- From `READY(k)` the machine goes through ISSUE and COMPLETE as the loop of `run` goes through the frames left. -/
theorem runEnds_of_readyFor (v : ExecVariant) {i : Instr} {p : BusOp} {a : DevAddr} {fs : List Frame} {ds : List Draw}
    {rest : List TransportMove} {xs : List Txn} {r : Response} {s : State} {k : Nat} (hi : i.wf = true)
    (hp : planOf i = some p) (hne : fs ≠ []) (hfs : p.frames.drop k = fs) (h : s.ReadyFor i k a)
    (hc : NoCancel s.host) (ht : s.transport = ds.map .answer ++ rest)
    (hrun : runFrames p a fs s.seq.rx ds = (xs, some r)) : RunEnds v (2 * xs.length) s xs r := by
  induction fs generalizing s k ds xs with
  | nil => exact absurd rfl hne
  | cons f fs ih =>
    cases ds with
    | nil => cases hrun
    | cons d ds =>
      obtain ⟨hf, hfs', -⟩ := BusOp.frames_of_drop hfs
      obtain ⟨ms, hc', hwait, hturn⟩ :=
        runWith_transaction v hi h (issuesFrame_of_planOf hp hf) hc ht
      obtain ⟨ys, t, rfl, he, htrace, hend⟩ := exec_answering_run hp hfs hwait h.addr hrun
      have htrace : issued t.seq.trace = issued s.seq.trace ++ [f.txn a] := htrace.trans (issued_append _ _)
      obtain ⟨rfl, hb, hr⟩ | ⟨hne', hrun', hready, hh, ht', hr⟩ := hend
      · exact ⟨t, hturn 0 t he, hb, htrace, hr⟩
      · have hleft := ih hne' hfs' hready (hh ▸ hc') ht' hrun'
        exact hleft.of_run (hturn _ t he) htrace hr

/-- The response of ACCEPT to an operation without transactions (R121, R139). -/
theorem exec_immediate {i : Instr} {s : State} {r : Response} (hp : planOf i = none) (hb : s.seq.busy = false)
    (hr : immediateResponse i s.seq.owned = some r) :
    ∃ t, exec i s = .next t ∧ t.seq.busy = false ∧ t.seq.trace = s.seq.trace ∧
      t.responses = s.responses ++ [r] := by
  obtain ⟨p, hp'⟩ | ⟨a, rfl⟩ | rfl | ⟨v, rfl⟩ := planOf_cases i
  · simp [hp] at hp'
  · cases ho : s.seq.owned <;> simp only [immediateResponse, ho] at hr <;> cases hr
    · exact ⟨_, exec_init_of_not_owned a hb ho, hb, rfl, rfl⟩
    · exact ⟨_, exec_init_of_owned a hb ho, hb, rfl, rfl⟩
  · cases ho : s.seq.owned <;> simp only [immediateResponse, ho] at hr <;> cases hr
    · exact ⟨_, noHandleRefused .release s rfl hb ho, hb, rfl, rfl⟩
    · exact ⟨_, exec_release_of_owned hb ho, hb, rfl, rfl⟩
  · have hclassify : classify v s = s.respond r := by
      cases hv : eco2Aqi v <;> simp only [immediateResponse, hv] at hr <;> cases hr <;> simp only [classify, hv]
      rfl
    rw [exec_eco2ToAqi, runNow_of_no_refusal _ hb rfl, hclassify]
    exact ⟨_, rfl, hb, rfl, rfl⟩

/-- An operation that its ACCEPT answers is a run of one step. -/
theorem runEnds_of_response {v : ExecVariant} {s t : State} {r : Response} (h : stepWith v s = .next t)
    (hb : t.seq.busy = false) (htrace : t.seq.trace = s.seq.trace) (hr : t.responses = s.responses ++ [r]) :
    RunEnds v 1 s [] r :=
  ⟨t, runWith_succ v 0 h, hb, by rw [htrace, List.append_nil], hr⟩

/-- An operation with transactions is refused without a handle (R76 (2)). -/
theorem runOp_notOwned {q : Seq} {cw : CmdWord} {i : Instr} {p : BusOp} (ds : List Draw) (hd : decode cw = .ok i)
    (hp : planOf i = some p) (ho : q.owned = false) : runOp q cw ds = ([], some (.refused .notOwned)) := by
  simp [runOp, hd, hp, ho]

/-- An operand outside its domain is refused (R76 (3)). -/
theorem runOp_outOfRange {q : Seq} {cw : CmdWord} {i : Instr} {p : BusOp} (ds : List Draw) (hd : decode cw = .ok i)
    (hp : planOf i = some p) (ho : q.owned = true) (hr : p.inRange = false) :
    runOp q cw ds = ([], some (.refused .operandRange)) := by
  simp [runOp, hd, hp, ho, hr]

/-- An accepted operation goes through all the frames of its plan. -/
theorem runOp_accepted {q : Seq} {cw : CmdWord} {i : Instr} {p : BusOp} {a : DevAddr} (ds : List Draw)
    (hd : decode cw = .ok i) (hp : planOf i = some p) (ho : q.owned = true) (hr : p.inRange = true)
    (ha : q.devAddr = some a) : runOp q cw ds = runFrames p a p.frames [] ds := by
  simp [runOp, hd, hp, ho, hr, ha]

/-- ACCEPT of an operation with transactions is the checks of `run`: it responds with the refusal, or leaves the block
in `READY(0)` with the whole loop to go. -/
theorem exec_accept_run {i : Instr} {p : BusOp} {cw : CmdWord} {s : State} {ds : List Draw} {xs : List Txn}
    {r : Response} (hd : decode cw = .ok i) (hp : planOf i = some p) (hinv : s.seq.Inv) (hb : s.seq.busy = false)
    (hrun : runOp s.seq cw ds = (xs, some r)) :
    ∃ t, exec i s = .next t ∧ t.seq.trace = s.seq.trace ∧
      ((xs = [] ∧ t.seq.busy = false ∧ t.responses = s.responses ++ [r]) ∨
       (∃ a, runFrames p a p.frames t.seq.rx ds = (xs, some r) ∧ t.ReadyFor i 0 a ∧ t.host = s.host ∧
        t.transport = s.transport ∧ t.responses = s.responses)) := by
  refine ⟨acceptBus p s, (exec_of_planOf hp s).trans (runBus_idle p hb), ?_⟩
  obtain ⟨ho, h⟩ | ⟨ho, hr, h⟩ | ⟨ho, hr, h⟩ := acceptBus_cases p s <;> rw [h]
  · rw [runOp_notOwned ds hd hp ho] at hrun
    cases hrun
    exact ⟨rfl, .inl ⟨rfl, hb, rfl⟩⟩
  · rw [runOp_outOfRange ds hd hp ho hr] at hrun
    cases hrun
    exact ⟨rfl, .inl ⟨rfl, hb, rfl⟩⟩
  · obtain ⟨a, ha⟩ := hinv.owned_addr ho
    rw [runOp_accepted ds hd hp ho hr ha] at hrun
    have hlatched : (s.seq.latch p.word).latched = encode i := (latched_latch _ _).trans (word_of_planOf hp)
    exact ⟨rfl, .inr ⟨a, hrun, ⟨rfl, rfl, hlatched, rfl, ha⟩, rfl, rfl, rfl⟩⟩

/-- Settles O42: ACCEPT takes the branch that `run` takes, and an accepted operation is `runEnds_of_readyFor`. -/
theorem stepsComposeIntoRun : Obligations.StepsComposeIntoRun := by
  intro v s cw ms ds rest xs r hinv hb hh hc ht hrun
  show RunEnds v (1 + 2 * xs.length) s xs r
  have hstep := stepWith_present v hb hh
  cases hd : decode cw with
  | error e =>
    simp only [runOp, hd] at hrun
    cases hrun
    exact runEnds_of_response (hstep.trans (acceptWord_of_illegal hd _)) hb rfl rfl
  | ok i =>
    rw [acceptWord_of_decode hd] at hstep
    cases hp : planOf i with
    | none =>
      simp only [runOp, hd, hp] at hrun
      obtain ⟨rfl, hr⟩ := Prod.mk.inj hrun
      obtain ⟨t, he, hb', htrace, hresp⟩ := exec_immediate (s := { s with host := ms }) hp hb hr
      exact runEnds_of_response (hstep.trans he) hb' htrace hresp
    | some p =>
      obtain ⟨t, he, htrace, ⟨rfl, hb', hr⟩ | ⟨a, hrun', hready, hh', ht', hr⟩⟩ :=
        exec_accept_run (s := { s with host := ms }) hd hp hinv hb hrun
      · exact runEnds_of_response (hstep.trans he) hb' htrace hr
      · have hne : p.frames ≠ [] := List.length_pos_iff.mp (sound_of_planOf hp).nsteps_pos
        have hleft := runEnds_of_readyFor v (wf_of_decode hd) hp hne rfl hready (hh' ▸ hc) (ht'.trans ht) hrun'
        rw [Nat.add_comm]
        exact hleft.of_run (xs := []) (runWith_succ v _ (hstep.trans he)) (by simp [htrace]) hr

end Sys2Proof.Machine
end

section
/-!
PROOFS. The execution model, step by step (45_execution_model.md sections 1 to 3): which operation a step runs, what it
does to a busy block, and what the answers of the transport make of an operation.
-/

namespace Sys2Proof.Machine

/-! ## The step of a busy block (R120, R124) -/

/-- CANCEL under `SUSPENDING` (R124). -/
theorem stepWith_cancel {s : State} {rest : List HostMove} (hb : s.seq.busy = true) (hh : s.host = .cancel :: rest) :
    stepWith .suspending s = .next (cancelOp { s with host := rest }) := by
  simp only [stepWith, if_pos hb, stepBusy, hh]

/-- A host with no move left leaves the step to the operation in progress. -/
theorem stepWith_busy_nil (v : ExecVariant) {s : State} {i : Instr} (hb : s.seq.busy = true)
    (hd : decode s.seq.latched = .ok i) (hh : s.host = []) : stepWith v s = exec i s := by
  simp only [stepWith, if_pos hb, stepBusy, hh, advance_of_decode hd]

/-- A host with a word to present waits (R130). -/
theorem stepWith_busy_present (v : ExecVariant) {s : State} {i : Instr} {cw : CmdWord} {rest : List HostMove}
    (hb : s.seq.busy = true) (hd : decode s.seq.latched = .ok i) (hh : s.host = .present cw :: rest) :
    stepWith v s = exec i s := by
  simp only [stepWith, if_pos hb, stepBusy, hh, advance_of_decode hd]

/-- A host that passes leaves the step to the operation in progress. -/
theorem stepWith_busy_pass (v : ExecVariant) {s : State} {i : Instr} {rest : List HostMove}
    (hb : s.seq.busy = true) (hd : decode s.seq.latched = .ok i) (hh : s.host = .pass :: rest) :
    stepWith v s = exec i { s with host := rest } := by
  simp only [stepWith, if_pos hb, stepBusy, hh]
  exact advance_of_decode hd

/-- Settles O4: the step under each of the three moves of the host that leave it to the operation, and ACCEPT. -/
theorem stepRunsDecodedWord : Obligations.StepRunsDecodedWord :=
  ⟨fun _ _ _ _ hb hh hd => (stepWith_present _ hb hh).trans (acceptWord_of_decode hd _),
    fun _ _ hb hd hh => stepWith_busy_nil _ hb hd hh,
    fun _ _ _ _ hb hd hh => stepWith_busy_present _ hb hd hh,
    fun _ _ _ hb hd hh => stepWith_busy_pass _ hb hd hh⟩

/-- Settles O5: `withFetchWord` presents the word to an `IDLE` block, and a word of 40 bits is not cut. -/
theorem presentedWordRunsNext : Obligations.PresentedWordRunsNext := by
  intro s w i hw hd
  rw [State.withFetchWord, Nat.mod_eq_of_lt hw]
  have hidle : (s.presenting (BitVec.ofNat 40 w)).seq.busy = false := rfl
  exact (stepWith_present _ hidle rfl).trans (acceptWord_of_decode hd _)

/-- Settles O29: the two cases of `Seq.cancel`. -/
theorem cancelAbandonsOperation : Obligations.CancelAbandonsOperation := by
  intro s rest hb hh
  rw [stepWith_cancel hb hh, cancelOp]
  cases hx : s.seq.inflight with
  | none => simp [Seq.cancel_of_none hx, State.withSeq, Seq.endOp, hx]
  | some x => simp [Seq.cancel_of_some hx, State.withSeq, Seq.close, Seq.endOp]

/-- A step of a busy block is a CANCEL under `SUSPENDING`, or a move of the operation latched; it takes no word from
the host (R120, R130). -/
theorem step_cases_of_busy {v : ExecVariant} {s t : State} (hb : s.seq.busy = true) (h : stepWith v s = .next t) :
    wordsOf t.host = wordsOf s.host ∧
    ((v = .suspending ∧ t.seq = s.seq.cancel) ∨
     ∃ i rs, OpMove i s.seq t.seq rs ∧ t.responses = s.responses ++ rs) := by
  obtain ⟨rest, hv, -, hh, rfl⟩ | ⟨ms, i, -, hw, -, -, he⟩ | ⟨cw, rest, i, hb', -⟩ | ⟨cw, rest, e, hb', -⟩ |
    ⟨ms, hb', -⟩ := step_cases h
  · exact ⟨by rw [hh]; rfl, .inl ⟨hv, rfl⟩⟩
  · obtain ⟨rs, hm, hr, -, hh⟩ := exec_move he
    exact ⟨hh ▸ hw, .inr ⟨i, rs, hm, hr⟩⟩
  · simp [hb] at hb'
  · simp [hb] at hb'
  · simp [hb] at hb'

/-- A successful answer is no abandonment. -/
theorem Received.ne_abandoned {q : Seq} {x : Txn} {bs : List Byte} {e : Event} (hr : Received q x bs e) :
    e ≠ .abandoned := by
  obtain ⟨a, wb, -, -, rfl⟩ | ⟨a, wb, n, -, -, rfl⟩ := hr <;> exact Event.noConfusion

/-- A move of an operation abandons nothing (R145). -/
theorem OpMove.trace_cases {i : Instr} {q q' : Seq} {rs : List Response} (hm : OpMove i q q' rs) :
    q'.trace = q.trace ∨ ∃ e, e ≠ Event.abandoned ∧ q'.trace = q.trace ++ [e] := by
  cases hm with
  | issues p a f => exact .inr ⟨.issue (f.txn a), by simp, rfl⟩
  | goesOn p x bs e hp hb hx hl hr => exact .inr ⟨e, hr.ne_abandoned, rfl⟩
  | ends p x bs e r hp hb hx hl hr => exact .inr ⟨e, hr.ne_abandoned, rfl⟩
  | fails p x e => exact .inr ⟨.doneErr e, by simp, rfl⟩
  | _ => exact .inl rfl

/-- A move of the operation in progress responds exactly when it ends it (R123). -/
theorem OpMove.busy_or_responds {i : Instr} {q q' : Seq} {rs : List Response} (hm : OpMove i q q' rs)
    (hb : q.busy = true) : (q'.busy = true ∧ rs = []) ∨ (q'.busy = false ∧ ∃ r, rs = [r]) := by
  cases hm with
  | waits => exact .inl ⟨hb, rfl⟩
  | issues => exact .inl ⟨hb, rfl⟩
  | goesOn => exact .inl ⟨hb, rfl⟩
  | ends => exact .inr ⟨rfl, _, rfl⟩
  | fails => exact .inr ⟨rfl, _, rfl⟩
  | responds r hb' => simp [hb] at hb'
  | takes a hi hb' => simp [hb] at hb'
  | drops hi hb' => simp [hb] at hb'
  | latches p hp hb' => simp [hb] at hb'

/-- A move of the operation in progress leaves the latched word (R17). -/
theorem OpMove.latched_eq {i : Instr} {q q' : Seq} {rs : List Response} (hm : OpMove i q q' rs)
    (hb : q.busy = true) : q'.curOp = q.curOp ∧ q'.curArg = q.curArg := by
  cases hm with
  | latches p hp hb' => simp [hb] at hb'
  | _ => exact ⟨rfl, rfl⟩

theorem Seq.cancel_latched_eq (q : Seq) : q.cancel.curOp = q.curOp ∧ q.cancel.curArg = q.curArg := by
  cases hx : q.inflight with
  | none => rw [Seq.cancel_of_none hx]; exact ⟨rfl, rfl⟩
  | some x => rw [Seq.cancel_of_some hx]; exact ⟨rfl, rfl⟩

/-- Settles O30: under `BLOCKING` only the move of the operation is left. -/
theorem blockingNeverAbandons : Obligations.BlockingNeverAbandons := by
  intro s t hb h
  obtain ⟨-, ⟨hv, -⟩ | ⟨i, rs, hm, hr⟩⟩ := step_cases_of_busy hb h
  · cases hv
  · refine ⟨hm.trace_cases, ?_⟩
    obtain ⟨hb', rfl⟩ | ⟨hb', r, rfl⟩ := hm.busy_or_responds hb
    · exact .inl ⟨hb', by simpa using hr⟩
    · exact .inr ⟨hb', r, hr⟩

/-- Settles O33: neither a CANCEL nor a move of the operation latches a word. -/
theorem noWordAcceptedWhileBusy : Obligations.NoWordAcceptedWhileBusy := by
  intro v s t hb h
  obtain ⟨hw, ⟨-, hq⟩ | ⟨i, rs, hm, -⟩⟩ := step_cases_of_busy hb h
  · exact ⟨hw, hq ▸ s.seq.cancel_latched_eq⟩
  · exact ⟨hw, hm.latched_eq hb⟩

/-! ## The plans (R107, R125) -/

theorem planOf_of_usesBus {i : Instr} (h : usesBus i = true) : ∃ p, planOf i = some p := by
  obtain hp | ⟨a, rfl⟩ | rfl | ⟨v, rfl⟩ := planOf_cases i
  · exact hp
  · cases h
  · cases h
  · cases h

/-- The range check of a plan is the domain of R107. -/
theorem inRange_of_inDomain {i : Instr} {p : BusOp} (hp : planOf i = some p) (h : inDomain i = true) :
    p.inRange = true := by
  cases i <;> cases hp
  case setTemp t => exact (inRange_opSetTemp_iff t).mpr (of_decide_eq_true h)
  case setHum u => exact (inRange_opSetHum_iff u).mpr (of_decide_eq_true h)
  all_goals rfl

/-- Settles O15: the plan's checks pass, so its ACCEPT latches. -/
theorem acceptLatchesWord : Obligations.AcceptLatchesWord := by
  intro i s hu hdom hb ho
  obtain ⟨p, hp⟩ := planOf_of_usesBus hu
  obtain ⟨-, haccept⟩ := needsHandle_of_planOf hp (inRange_of_inDomain hp hdom) s hb
  exact haccept ho

/-- `txn` is defined for the transactions of the plan (R125). -/
theorem txnAt_isSome_iff (i : Instr) (a : DevAddr) (k : Nat) : (∃ x, txnAt i a k = some x) ↔ k < nsteps i := by
  cases hp : planOf i with
  | none => simp [txnAt, nsteps, hp]
  | some p => simp [txnAt_of_planOf hp, nsteps_of_planOf hp, BusOp.nsteps, ← Option.isSome_iff_exists]

/-- Settles O44: the number of frames of each plan, and `txnAt` looks the frame up. -/
theorem planHasItsTransactions : Obligations.PlanHasItsTransactions := by
  refine ⟨fun i => ?_, txnAt_isSome_iff⟩
  cases i <;> rfl

/-! ## A transport that never answers (R131) -/

/-- While no answer comes, a step of the operation that waits changes nothing. -/
theorem exec_silent {i : Instr} {s : State} {x : Txn} (hu : usesBus i = true) (hb : s.seq.busy = true)
    (hl : s.seq.latched = encode i) (hx : s.seq.inflight = some x) (ht : s.transport = []) : exec i s = .next s := by
  obtain ⟨p, hp⟩ := planOf_of_usesBus hu
  rw [exec_of_planOf hp, runBus_wait hb hx (hl.trans (word_of_planOf hp).symm)]
  simp only [awaitAnswer, ht]

/-- Settles O32: each step leaves the state as it is. -/
theorem silentTransportHangs : Obligations.SilentTransportHangs := by
  intro v n i s x hi hu hb hl hx ht hh
  have hstep : stepWith v s = .next s :=
    (stepWith_busy_nil v hb (hl ▸ decode_encode hi) hh).trans (exec_silent hu hb hl hx ht)
  induction n with
  | zero => rfl
  | succ n ih => rw [runWith_succ v n hstep, ih]

/-! ## A transport that answers (R131, R132) -/

/-- The frames `fs` end the plan, and if there are none the bytes read are enough for its result: the loop of `run`
can go on from here to a response (R126, R132). -/
structure BusOp.CanEnd (p : BusOp) (fs : List Frame) (rx : List Byte) : Prop where
  suffix : fs <:+ p.frames
  finish : fs = [] → ∃ r, p.finish rx = some r

theorem BusOp.canEnd_of_ne_nil {p : BusOp} {fs : List Frame} (hfs : fs <:+ p.frames) (hne : fs ≠ []) (rx : List Byte) :
    p.CanEnd fs rx := ⟨hfs, fun h => absurd h hne⟩

/-- A success keeps it. -/
theorem BusOp.CanEnd.success {p : BusOp} {f : Frame} {fs : List Frame} {rx : List Byte} (h : p.CanEnd (f :: fs) rx)
    (hs : p.Sound) (b0 b1 b2 b3 : Byte) : p.CanEnd fs (f.received rx b0 b1 b2 b3) where
  suffix := (List.suffix_cons f fs).trans h.suffix
  finish hnil := by
    obtain ⟨before, hframes⟩ := h.suffix
    exact hs.finish_success (by simp [← hframes, hnil]) rx b0 b1 b2 b3

/-- With an answer for each frame the loop ends with a response (R131). -/
theorem runFrames_of_answers {p : BusOp} (hs : p.Sound) (a : DevAddr) {fs : List Frame} {rx : List Byte}
    {ds : List Draw} (h : p.CanEnd fs rx) (hlen : fs.length ≤ ds.length) :
    ∃ xs r, runFrames p a fs rx ds = (xs, some r) ∧ xs.length ≤ fs.length := by
  induction fs generalizing rx ds with
  | nil =>
    obtain ⟨r, hr⟩ := h.finish rfl
    exact ⟨[], .ok r, by simp [runFrames, hr], le_rfl⟩
  | cons f fs ih =>
    match ds, hlen with
    | .failure e :: ds, _ => exact ⟨_, _, runFrames_failure p a f fs rx e ds, by simp⟩
    | .success b0 b1 b2 b3 :: ds, hlen =>
      obtain ⟨xs, r, hrun, hle⟩ := ih (h.success hs b0 b1 b2 b3) (Nat.le_of_succ_le_succ hlen)
      exact ⟨f.txn a :: xs, r, by rw [runFrames_success, hrun], Nat.succ_le_succ hle⟩

/-- When their answers are successes the loop goes through all its frames and ends with the result. -/
theorem runFrames_of_successes {p : BusOp} (hs : p.Sound) (a : DevAddr) {fs : List Frame} {rx : List Byte}
    {ds : List Draw} (h : p.CanEnd fs rx) (hlen : ds.length = fs.length) (hok : ∀ d ∈ ds, ∀ e, d ≠ Draw.failure e) :
    (runFrames p a fs rx ds).1.length = fs.length ∧ ∃ r, (runFrames p a fs rx ds).2 = some (.ok r) := by
  induction fs generalizing rx ds with
  | nil =>
    obtain ⟨r, hr⟩ := h.finish rfl
    exact ⟨rfl, r, by simp [runFrames, hr]⟩
  | cons f fs ih =>
    match ds, hlen with
    | .failure e :: ds, _ => exact absurd rfl (hok _ List.mem_cons_self e)
    | .success b0 b1 b2 b3 :: ds, hlen =>
      obtain ⟨hcount, r, hr⟩ :=
        ih (h.success hs b0 b1 b2 b3) (Nat.succ.inj hlen) fun d hd => hok d (List.mem_cons_of_mem _ hd)
      rw [runFrames_success]
      exact ⟨congrArg (· + 1) hcount, r, hr⟩

/-- The first failure ends the loop with its error, after the transactions before it and its own. -/
theorem runFrames_of_failure (p : BusOp) (a : DevAddr) {fs : List Frame} {rx : List Byte} {before after : List Draw}
    {e : TErr} (hlen : before.length < fs.length) (hok : ∀ d ∈ before, ∀ e', d ≠ Draw.failure e') :
    (runFrames p a fs rx (before ++ .failure e :: after)).1.length = before.length + 1 ∧
    (runFrames p a fs rx (before ++ .failure e :: after)).2 = some (.busError e) := by
  induction before generalizing fs rx with
  | nil =>
    obtain ⟨f, fs, rfl⟩ := List.exists_cons_of_length_pos hlen
    exact ⟨rfl, rfl⟩
  | cons d before ih =>
    obtain ⟨f, fs, rfl⟩ := List.exists_cons_of_length_pos (Nat.zero_lt_of_lt hlen)
    cases d with
    | failure e' => exact absurd rfl (hok _ List.mem_cons_self e')
    | success b0 b1 b2 b3 =>
      obtain ⟨hcount, hr⟩ := ih (rx := f.received rx b0 b1 b2 b3) (Nat.lt_of_succ_lt_succ hlen)
        fun d hd => hok d (List.mem_cons_of_mem _ hd)
      rw [List.cons_append, runFrames_success]
      exact ⟨congrArg (· + 1) hcount, hr⟩

/-- Settles O43: `run` of an accepted operation is the loop over the frames of its plan. -/
theorem runStopsAtFirstFailure : Obligations.RunStopsAtFirstFailure := by
  intro q cw i a ds hd hu hdom ho ha hlen
  obtain ⟨p, hp⟩ := planOf_of_usesBus hu
  have hs := sound_of_planOf hp
  rw [runOp_accepted ds hd hp ho (inRange_of_inDomain hp hdom) ha]
  rw [nsteps_of_planOf hp] at hlen ⊢
  have hcan := BusOp.canEnd_of_ne_nil List.suffix_rfl (List.length_pos_iff.mp hs.nsteps_pos) []
  refine ⟨runFrames_of_successes hs a hcan hlen, fun before after e hds hok => ?_⟩
  subst hds
  refine runFrames_of_failure p a ?_ hok
  have hn : _ = p.frames.length := hlen
  simp only [List.length_append, List.length_cons] at hn
  omega

/-- The outstanding transaction is frame `S.step` of the plan, addressed to the device of the handle (R122). -/
theorem Seq.Inv.outstanding_eq {q : Seq} {x : Txn} {i : Instr} {p : BusOp} {a : DevAddr} {f : Frame} (h : q.Inv)
    (hx : q.inflight = some x) (hd : decode q.latched = .ok i) (hp : planOf i = some p) (ha : q.devAddr = some a)
    (hf : p.frames[q.stepIdx.toNat]? = some f) : x = f.txn a := by
  obtain ⟨j, b, hd', ha', ht⟩ := h.inflight_planned x hx
  obtain rfl : i = j := ok_inj (hd.symm.trans hd')
  obtain rfl : a = b := Option.some.inj (ha.symm.trans ha')
  simpa [txnAt_of_planOf hp, hf, eq_comm] using ht

/-- Settles O45: a transaction outstanding is closed by the first answer (`exec_answering_run`), and the ones left take
two steps each (`runEnds_of_readyFor`); a plan has at most two. -/
theorem answeredOperationEnds : Obligations.AnsweredOperationEnds := by
  intro v s d0 d1 rest hinv hb hc ht
  obtain ⟨i, p, f, hd, hl, hp, hf⟩ := hinv.plan hb
  have hs := sound_of_planOf hp
  have hdrop := BusOp.drop_of_getElem? hf
  obtain ⟨-, -, hn⟩ := BusOp.frames_of_drop hdrop
  have hle := hs.nsteps_le
  obtain ⟨a, ha⟩ := hinv.owned_addr (hinv.busy_owned hb)
  obtain ⟨xs, r, hrun, hlen⟩ := runFrames_of_answers (ds := [d0, d1]) hs a
    (BusOp.canEnd_of_ne_nil (hdrop ▸ List.drop_suffix _ _) (List.cons_ne_nil _ _) s.seq.rx)
    (by simp only [List.length_cons, List.length_nil]; omega)
  simp only [List.length_cons] at hlen
  cases hx : s.seq.inflight with
  | none =>
    obtain ⟨t, hsteps, hb', -, hr⟩ := runEnds_of_readyFor v (wf_of_decode hd) hp (List.cons_ne_nil _ _) hdrop
      ⟨hb, hx, hl, rfl, ha⟩ hc ht hrun
    exact ⟨_, t, r, by omega, hsteps, hb', hr⟩
  | some x =>
    obtain rfl : x = f.txn a := hinv.outstanding_eq hx hd hp ha hf
    obtain ⟨ms, hc', hstep⟩ := stepWith_busy_exec v hb hd hc
    obtain ⟨ys, t, rfl, he, -, ⟨rfl, hb', hr⟩ | ⟨hne, hrun', hready, hh, ht', hr⟩⟩ :=
      exec_answering_run (s := { s with host := ms }) hp hdrop ⟨hb, hx, hl, rfl, ht⟩ ha hrun
    · exact ⟨1, t, r, by omega, runWith_succ v 0 (hstep.trans he), hb', hr⟩
    · obtain ⟨t', hsteps, hb', -, hr'⟩ := runEnds_of_readyFor (ds := [d1]) v (wf_of_decode hd) hp hne rfl hready
        (hh ▸ hc') ht' hrun'
      exact ⟨_, t', r, by simp only [List.length_cons] at hlen; omega,
        (runWith_succ v _ (hstep.trans he)).trans hsteps, hb', hr'.trans (congrArg (· ++ [r]) hr)⟩

end Sys2Proof.Machine
end

section
/-!
PROOFS. The exceptions (60_exceptions.md): the order of the checks on a presented word, and the failure of a
transaction. Each outcome is the abnormal end of R141.
-/

namespace Sys2Proof.Machine

/-- Only the two setters have an operand outside its domain, and with a handle they refuse it (R107, R139 (3)). -/
theorem rangeRefused_of_not_inDomain {i : Instr} {s : State} (hdom : inDomain i = false) (hb : s.seq.busy = false)
    (ho : s.seq.owned = true) : RefusedWith i .operandRange s := by
  cases i with
  | setTemp t =>
    have hout := of_decide_eq_false hdom
    exact setTemp_refused hb ho (by omega)
  | setHum u => exact setHum_refused hb ho (not_le.mp (of_decide_eq_false hdom))
  | _ => cases hdom

/-- A value below 400 ppm is no category, with or without a handle (R136, R139 (4)). -/
theorem exec_eco2ToAqi_of_lt {v : Nat} {s : State} (hb : s.seq.busy = false) (hv : v < 400) :
    exec (.eco2ToAqi v) s = .next (s.respond (.convError (BitVec.ofNat 16 v))) := by
  rw [exec_eco2ToAqi, runNow_of_no_refusal _ hb rfl, classify_eq_respond, if_pos hv]

/-- Settles O14: ACCEPT refuses an `Illegal` word and runs any other, and the operation makes the other checks. -/
theorem firstFailingCheckAnswers : Obligations.FirstFailingCheckAnswers := fun _ s hb =>
  ⟨fun _ he => acceptWord_of_illegal he s,
    fun i hd hn ho => (acceptWord_of_decode hd s).trans (noHandleRefused i s hn hb ho),
    fun a hd ho => (acceptWord_of_decode hd s).trans (exec_init_of_owned a hb ho),
    fun _ hd _ ho hdom => (acceptWord_of_decode hd s).trans (rangeRefused_of_not_inDomain hdom hb ho),
    fun _ hd hv => (acceptWord_of_decode hd s).trans (exec_eco2ToAqi_of_lt hb hv)⟩

/-- Settles O28: an operation that uses the bus has a plan, and a failure ends any plan at any transaction. -/
theorem busErrorEndsAnyOperation : Obligations.BusErrorEndsAnyOperation := by
  intro i k hu _
  obtain ⟨p, hp⟩ := planOf_of_usesBus hu
  exact failureEnds_of_planOf k hp

end Sys2Proof.Machine
end

section
/-!
PROOFS. Reset (70_reset_and_hazards.md): the reset state is one of the `IDLE` states without a handle.
-/

namespace Sys2Proof.Machine

/-- Settles O9: at reset the block is `IDLE` with an empty trace and no handle, so `noHandleRefused` applies. -/
theorem resetRefusesAllButInitAndClassify : Obligations.ResetRefusesAllButInitAndClassify :=
  ⟨rfl, rfl, fun i hi => noHandleRefused i State.reset hi rfl rfl⟩

end Sys2Proof.Machine
end
